-- ==== Sys2Proof/Word.lean ====
section
/-! DEFINITION. The word types of the machine (00_scope.md R5, R6): bit 0 is the least significant bit. -/

namespace Sys2Proof

/-- A register value: MXLEN = SXLEN = UXLEN = VSXLEN = VUXLEN = 64 (R4, decision D2; DESIGN CHOICE of the spec, log 28). -/
abbrev Word := BitVec 64

/-- The smallest addressable unit of the instruction space (R100). -/
abbrev Byte := BitVec 8

/-- A 16-bit parcel, the unit of instruction fetch (R130). -/
abbrev Half := BitVec 16

/-- A 32-bit instruction word (R130). -/
abbrev IWord := BitVec 32

end Sys2Proof
end

