-- ==== Sys2Proof/Syntax.lean ====
section
/-! DEFINITION. The instructions, one constructor per row of spec/opcode_table.json (30_encoding.md R137), and the names of
the CSRs they reach (10_state.md R21). -/

namespace Sys2Proof

/-- A general register number, 0 to 31 (R136). -/
abbrev Reg := BitVec 5

/-- A CSR number, 0 to 4095 (R100, R131). -/
abbrev CsrNum := BitVec 12

/-- The eight CSRs of this spec (R21). `sstatus` is a window without storage (R46). -/
inductive Csr where
  | ssp
  | sstatus
  | vsstatus
  | mstatus
  | menvcfg
  | henvcfg
  | mseccfg
  | dcsr
  deriving DecidableEq, Repr

/-- The ten instructions of the admitted set (R137). Operand fields are those of R136. -/
inductive Instr where
  /-- `csrrw rd, csr, rs1` (R171) -/
  | csrrw (rd : Reg) (csr : CsrNum) (rs1 : Reg)
  /-- `csrrs rd, csr, rs1` (R172) -/
  | csrrs (rd : Reg) (csr : CsrNum) (rs1 : Reg)
  /-- `csrrc rd, csr, rs1` (R173) -/
  | csrrc (rd : Reg) (csr : CsrNum) (rs1 : Reg)
  /-- `csrrwi rd, csr, uimm` (R174) -/
  | csrrwi (rd : Reg) (csr : CsrNum) (uimm : BitVec 5)
  /-- `csrrsi rd, csr, uimm` (R175) -/
  | csrrsi (rd : Reg) (csr : CsrNum) (uimm : BitVec 5)
  /-- `csrrci rd, csr, uimm` (R176) -/
  | csrrci (rd : Reg) (csr : CsrNum) (uimm : BitVec 5)
  /-- `mop.r.n rd, rs1`, n = 0..31 (R193) -/
  | mopRN (n : BitVec 5) (rd : Reg) (rs1 : Reg)
  /-- `mop.rr.n rd, rs1, rs2`, n = 0..7 (R193) -/
  | mopRRN (n : BitVec 3) (rd : Reg) (rs1 : Reg) (rs2 : Reg)
  /-- `c.mop.n`, n odd, 1..15 (R196); an even n is no instruction (WellFormed.lean) -/
  | cmopN (n : BitVec 4)
  /-- `lpad LPL`, a 20-bit label (R211) -/
  | lpad (lpl : BitVec 20)
  deriving DecidableEq, Repr

/-- The length of an instruction in bytes (R130). -/
def Instr.size : Instr → Nat
  | .csrrw _ _ _ => 4
  | .csrrs _ _ _ => 4
  | .csrrc _ _ _ => 4
  | .csrrwi _ _ _ => 4
  | .csrrsi _ _ _ => 4
  | .csrrci _ _ _ => 4
  | .mopRN _ _ _ => 4
  | .mopRRN _ _ _ _ => 4
  | .cmopN _ => 2
  | .lpad _ => 4

end Sys2Proof
end

