-- ==== Sys2Proof/Config.lean ====
section
/-! DEFINITION. The open parameters of 00_scope.md R4. Those for which the spec gives a default (CSR_ADDR, SSP_CSR_ADDR,
csr_priv_ok, LPAD_MASK and LPAD_MATCH) are the arguments `Params`, which the decoder, the access check, the CSR instructions and
the step take; the defaults are in Decode.lean and Machine/Defaults.lean. The others, and the free values, are constants
WITHOUT a body: nothing can be proved of their values, so a statement holds for every implementation. -/

namespace Sys2Proof.Machine

/-- The privilege of the hart (R20, R241). -/
inductive Priv where
  | U
  | S
  | M
  deriving DecidableEq, Repr

/-- The three answers of `csr_priv_ok` (R162). -/
inductive PrivCheck where
  | ok
  | illegal
  | refuse
  deriving DecidableEq, Repr

end Sys2Proof.Machine

namespace Sys2Proof.Config

/-- `LPAD_MASK` and `LPAD_MATCH` (R4, R135; D20). -/
structure LpadCode where
  mask : IWord
  pattern : IWord
  deriving DecidableEq, Repr

/-- The configuration arguments with a default (R4; the list at the end of 92_eei_decisions.md). Log 1, 2, 7. -/
structure Params where
  /-- `CSR_ADDR[name]` (R21; D3); not asked at `ssp`, which has its own parameter -/
  csrAddr : Csr → CsrNum
  /-- `SSP_CSR_ADDR` (R21; D3) -/
  sspCsrAddr : CsrNum
  /-- `csr_priv_ok(csr, priv, V)` (R162; D12) -/
  csrPrivOk : Csr → Machine.Priv → Bool → Machine.PrivCheck
  /-- `LPAD_MASK`, `LPAD_MATCH` (R135; D20) -/
  lpad : LpadCode

/-- The free one-bit value a gated field takes when its gate goes from 0 to 1 (10_state.md R64, U6, D5), the k-th one drawn.
DESIGN CHOICE, log 4. -/
opaque draw : Nat → Bool

/-- Which 32-bit words are Zicfiss instructions (R4 ZICFISS32, R195, D20). `inZicfiss32` of Machine/Operands.lean keeps it
inside the Zimop encodings. Log 3. -/
opaque zicfiss32 : IWord → Bool

/-- Which 16-bit words are Zicfiss instructions (R4 ZICFISS16, R195, D20). Log 3. -/
opaque zicfiss16 : Half → Bool

/-- What a write of `written` leaves in the fields the source only draws (R4 legalize_other, R68, D9), given the value of
the CSR as read before. Only the bits at those fields' positions are used. Log 5. -/
opaque legalizeOther : Csr → Word → Word → Word

/-- The trap value that goes with an illegal-instruction exception (R4 illegal_tval, R232, D11). Log 8. -/
opaque illegalTval : IWord → Word

/-- SSPMP after reset: some member of SSPMP_LEGAL (R260, R261). Log 6. -/
opaque sspmpReset : BitVec 6

/-- Which other values of SSPMP are legal (R4, R58, D21). Log 6. -/
opaque sspmpAlsoLegal : BitVec 6 → Bool

/-- Where an illegal written value goes, before it is made legal (R4 sspmp_legalize, D21). Log 6. -/
opaque sspmpPick : BitVec 6 → BitVec 6 → BitVec 6

/-- SSPMP_LEGAL: any non-empty set of 6-bit values can be this one (R4, R58). -/
def sspmpLegal (v : BitVec 6) : Bool := v == sspmpReset || sspmpAlsoLegal v

/-- `sspmp_legalize(old, written)`: any function into SSPMP_LEGAL can be this one (R4, R58, R169). -/
def sspmpLegalize (old written : BitVec 6) : BitVec 6 :=
  if sspmpLegal (sspmpPick old written) then sspmpPick old written else sspmpReset

end Sys2Proof.Config
end

