-- ==== Sys2Proof/WellFormed.lean ====
section
/-! DEFINITION. Which terms of `Instr` are instructions. Every operand field has the width its encoding gives it, so one
check is left: `n` of `c.mop.n` is odd (30_encoding.md R134, R136). -/

namespace Sys2Proof

/-- `n` of `c.mop.n` is odd: its lowest bit is the constant 1 of `h[10:8] ++ 0b1` (R136). -/
def oddMop (n : BitVec 4) : Bool := n.getLsbD 0

/-- The term stands for an instruction of the admitted set (R137). -/
def Instr.wellFormed : Instr → Bool
  | .csrrw _ _ _ => true
  | .csrrs _ _ _ => true
  | .csrrc _ _ _ => true
  | .csrrwi _ _ _ => true
  | .csrrsi _ _ _ => true
  | .csrrci _ _ _ => true
  | .mopRN _ _ _ => true
  | .mopRRN _ _ _ _ => true
  | .cmopN n => oddMop n
  | .lpad _ => true

end Sys2Proof
end

