-- ==== Sys2Proof/Decode.lean ====
section
/-! DEFINITION. The decoder, total on any bytes and rejecting by name, and after it the encoder (30_encoding.md R130 to R140).
Every bit pattern here is the spec's, which marks all of them as general knowledge (G6 to G9, G15): PRESUMED, log 2. -/

namespace Sys2Proof

/-- Why some bytes are no instruction of the admitted set. -/
inductive DecodeError where
  /-- fewer bytes than the length rule asks for (R130): the machine is stuck there (R106) -/
  | truncated
  /-- the first parcel announces 48 bits or more (R130): refused -/
  | longEncoding
  /-- no row of the opcode table fits (R139): refused -/
  | notInAdmittedSet
  deriving DecidableEq, Repr

/-! ### The rows: `w & mask = match` (R137) -/

/-- `w` fits the row with this mask and match (R137). -/
def fits {k : Nat} (w mask pattern : BitVec k) : Bool := (w &&& mask) == pattern

/-- The mask of the six CSR rows (R131, R137). -/
def csrMask : IWord := 0x0000707F#32

/-- The match of the CSR row with this funct3 (R131): opcode SYSTEM = 1110011. -/
def csrMatch (funct3 : BitVec 3) : IWord := (0#17 ++ funct3 ++ 0#5 ++ 0x73#7).cast rfl

/-- MOP.R (R133). -/
def mopRMask : IWord := 0xB3C0707F#32
/-- MOP.R (R133). -/
def mopRMatch : IWord := 0x81C04073#32
/-- MOP.RR (R133). -/
def mopRRMask : IWord := 0xB200707F#32
/-- MOP.RR (R133). -/
def mopRRMatch : IWord := 0x82004073#32
/-- C.MOP (R134). -/
def cmopMask : Half := 0xF8FF#16
/-- C.MOP (R134). -/
def cmopMatch : Half := 0x6081#16
/-- The parameter LPAD_MASK at its default (R4, R135; D20, G7): PRESUMED, log 2. -/
def lpadMask : IWord := 0x00000FFF#32
/-- The parameter LPAD_MATCH at its default (R4, R135; D20, G7): PRESUMED, log 2. -/
def lpadMatch : IWord := 0x00000017#32

/-- The pair at its default. -/
def lpadDefault : Config.LpadCode := { mask := lpadMask, pattern := lpadMatch }

/-- The 32-bit rows in the table's order, as (mask, match), for the `lpad` pattern `L` (R135, R137). -/
def wordRowsIn (L : Config.LpadCode) : List (IWord × IWord) :=
  [(csrMask, csrMatch 1), (csrMask, csrMatch 2), (csrMask, csrMatch 3), (csrMask, csrMatch 5), (csrMask, csrMatch 6),
   (csrMask, csrMatch 7), (mopRMask, mopRMatch), (mopRRMask, mopRRMatch), (L.mask, L.pattern)]

/-- The 32-bit rows of the opcode table (R137). -/
def wordRows : List (IWord × IWord) := wordRowsIn lpadDefault

/-! ### Operand fields (R136) -/

/-- `csr = w[31:20]` -/
def fieldCsr (w : IWord) : CsrNum := w.extractLsb' 20 12
/-- `rs1 = w[19:15]`, or `uimm` in the immediate forms -/
def fieldRs1 (w : IWord) : Reg := w.extractLsb' 15 5
/-- `rs2 = w[24:20]` -/
def fieldRs2 (w : IWord) : Reg := w.extractLsb' 20 5
/-- `rd = w[11:7]` -/
def fieldRd (w : IWord) : Reg := w.extractLsb' 7 5
/-- `LPL = w[31:12]` -/
def fieldLpl (w : IWord) : BitVec 20 := w.extractLsb' 12 20
/-- `n` of `mop.r.n` is `w[30] ++ w[27:26] ++ w[21:20]` -/
def fieldMopR (w : IWord) : BitVec 5 :=
  (w.extractLsb' 30 1 ++ w.extractLsb' 26 2 ++ w.extractLsb' 20 2).cast rfl
/-- `n` of `mop.rr.n` is `w[30] ++ w[27:26]` -/
def fieldMopRR (w : IWord) : BitVec 3 := (w.extractLsb' 30 1 ++ w.extractLsb' 26 2).cast rfl
/-- `n` of `c.mop.n` is `h[10:8] ++ 0b1` -/
def fieldCmop (h : Half) : BitVec 4 := (h.extractLsb' 8 3 ++ 1#1).cast rfl

/-! ### The decoder -/

/-- A 32-bit word: the first row of the table that fits, for the `lpad` pattern `L` (R135, R137). -/
def decodeWordIn (L : Config.LpadCode) (w : IWord) : Option Instr :=
  if fits w csrMask (csrMatch 1) then some (.csrrw (fieldRd w) (fieldCsr w) (fieldRs1 w))
  else if fits w csrMask (csrMatch 2) then some (.csrrs (fieldRd w) (fieldCsr w) (fieldRs1 w))
  else if fits w csrMask (csrMatch 3) then some (.csrrc (fieldRd w) (fieldCsr w) (fieldRs1 w))
  else if fits w csrMask (csrMatch 5) then some (.csrrwi (fieldRd w) (fieldCsr w) (fieldRs1 w))
  else if fits w csrMask (csrMatch 6) then some (.csrrsi (fieldRd w) (fieldCsr w) (fieldRs1 w))
  else if fits w csrMask (csrMatch 7) then some (.csrrci (fieldRd w) (fieldCsr w) (fieldRs1 w))
  else if fits w mopRMask mopRMatch then some (.mopRN (fieldMopR w) (fieldRd w) (fieldRs1 w))
  else if fits w mopRRMask mopRRMatch then some (.mopRRN (fieldMopRR w) (fieldRd w) (fieldRs1 w) (fieldRs2 w))
  else if fits w L.mask L.pattern then some (.lpad (fieldLpl w))
  else none

/-- A 32-bit word: the first row of the opcode table that fits (R137). -/
def decodeWord (w : IWord) : Option Instr := decodeWordIn lpadDefault w

/-- A 16-bit instruction: the one 16-bit row (R134, R137). -/
def decodeHalf (h : Half) : Option Instr :=
  if fits h cmopMask cmopMatch then some (.cmopN (fieldCmop h)) else none

/-- `h[1:0] = 0b11`: the instruction is longer than 16 bits (R130). -/
def isLong (h : Half) : Bool := h.extractLsb' 0 2 == 3#2

/-- `h[4:2] = 0b111` and `h[1:0] = 0b11`: 48 bits or longer, refused (R130). -/
def isTooLong (h : Half) : Bool := h.extractLsb' 0 5 == 31#5

/-- A parcel from its two bytes, little-endian: `h[7:0]` at the lower address (R103; D14). -/
def parcel (b0 b1 : Byte) : Half := (b1 ++ b0).cast rfl

/-- A word from its two parcels, the first at the lower address (R103, R130). -/
def joinParcels (lo hi : Half) : IWord := (hi ++ lo).cast rfl

/-- A decoded instruction with the bytes after it, or the refusal where no row fits (R139). -/
def orRefuse (o : Option Instr) (rest : List Byte) : Except DecodeError (Instr × List Byte) :=
  match o with
  | some i => .ok (i, rest)
  | none => .error .notInAdmittedSet

/-- The decoder for the `lpad` pattern `L`: the instruction at the head of the bytes, with the bytes after it, by the length
rule (R130, R135). -/
def decodeIn (L : Config.LpadCode) : List Byte → Except DecodeError (Instr × List Byte)
  | b0 :: b1 :: rest =>
    if isTooLong (parcel b0 b1) then .error .longEncoding
    else if isLong (parcel b0 b1) then
      match rest with
      | b2 :: b3 :: rest' => orRefuse (decodeWordIn L (joinParcels (parcel b0 b1) (parcel b2 b3))) rest'
      | [_] => .error .truncated
      | [] => .error .truncated
    else orRefuse (decodeHalf (parcel b0 b1)) rest
  | [_] => .error .truncated
  | [] => .error .truncated

/-- The decoder of the opcode table (R130, R137). -/
def decode (bytes : List Byte) : Except DecodeError (Instr × List Byte) := decodeIn lpadDefault bytes

/-! ### The encoder -/

/-- Format CSR (R131). -/
def csrWord (csr : CsrNum) (src : BitVec 5) (funct3 : BitVec 3) (rd : Reg) : IWord :=
  (csr ++ src ++ funct3 ++ rd ++ 0x73#7).cast rfl

/-- Format MOP.R (R133): `1 n[4] 00 n[3:2] 0111 n[1:0] rs1 100 rd 1110011`. -/
def mopRWord (n : BitVec 5) (rs1 rd : Reg) : IWord :=
  (1#1 ++ n.extractLsb' 4 1 ++ 0#2 ++ n.extractLsb' 2 2 ++ 7#4 ++ n.extractLsb' 0 2 ++ rs1 ++ 4#3 ++ rd ++ 0x73#7).cast rfl

/-- Format MOP.RR (R133): `1 n[2] 00 n[1:0] 1 rs2 rs1 100 rd 1110011`. -/
def mopRRWord (n : BitVec 3) (rs2 rs1 rd : Reg) : IWord :=
  (1#1 ++ n.extractLsb' 2 1 ++ 0#2 ++ n.extractLsb' 0 2 ++ 1#1 ++ rs2 ++ rs1 ++ 4#3 ++ rd ++ 0x73#7).cast rfl

/-- Format C.MOP (R134): `011 0 0 n[3:1] 1 00000 01`. -/
def cmopHalf (n : BitVec 4) : Half := (0x0C#5 ++ n.extractLsb' 1 3 ++ 0x81#8).cast rfl

/-- Format U with `rd = 0` (R132, R135). -/
def lpadWord (lpl : BitVec 20) : IWord := (lpl ++ 0#5 ++ 0x17#7).cast rfl

/-- The parcels of a 32-bit word, low half first (R130). -/
def parcelsOf (w : IWord) : List Half := [w.extractLsb' 0 16, w.extractLsb' 16 16]

/-- The encoder: the 16-bit parcels of a well-formed instruction, the first at the lowest address (R130 to R136). -/
def encode : Instr → List Half
  | .csrrw rd csr rs1 => parcelsOf (csrWord csr rs1 1 rd)
  | .csrrs rd csr rs1 => parcelsOf (csrWord csr rs1 2 rd)
  | .csrrc rd csr rs1 => parcelsOf (csrWord csr rs1 3 rd)
  | .csrrwi rd csr uimm => parcelsOf (csrWord csr uimm 5 rd)
  | .csrrsi rd csr uimm => parcelsOf (csrWord csr uimm 6 rd)
  | .csrrci rd csr uimm => parcelsOf (csrWord csr uimm 7 rd)
  | .mopRN n rd rs1 => parcelsOf (mopRWord n rs1 rd)
  | .mopRRN n rd rs1 rs2 => parcelsOf (mopRRWord n rs2 rs1 rd)
  | .cmopN n => [cmopHalf n]
  | .lpad lpl => parcelsOf (lpadWord lpl)

/-- A parcel's two bytes, the low byte at the lower address (R103). -/
def parcelBytes (h : Half) : List Byte := [h.extractLsb' 0 8, h.extractLsb' 8 8]

/-- The instruction as it lies in memory (R103). -/
def encodeBytes (i : Instr) : List Byte := (encode i).flatMap parcelBytes

/-! ### The table's own numbering of an instruction's bits -/

/-- The lowest `n` bytes of the number `v`, the least significant first (R103). -/
def bytesLE : Nat → Nat → List Byte
  | 0, _ => []
  | n + 1, v => BitVec.ofNat 8 v :: bytesLE n (v / 256)

/-- The bytes of a table word as the hardware stores them: `nbits` bits of `w`, every bit above them 0, up to the longest
instruction (4 bytes). -/
def tableBytes (nbits w : Nat) : List Byte := bytesLE 4 (w % 2 ^ nbits)

/-- The instruction the decoder reads from an instruction whose bits are `w`; none where it refuses. -/
def decodeTableWord (nbits w : Nat) : Option Instr :=
  match decode (tableBytes nbits w) with
  | .ok (i, _) => some i
  | .error _ => none

end Sys2Proof
end

