-- ==== Sys2Proof/Machine/State.lean ====
section
/-! DEFINITION. The state of the hart as plain data (10_state.md R20, R22 to R63), the reasons a step can stop (60_exceptions.md
R230, R236), and the state after reset (70_reset_and_hazards.md R260, R261). -/

namespace Sys2Proof.Machine

/-- The expected-landing-pad state (R24). -/
inductive Elp where
  /-- "no landing pad instruction expected", encoded 0 (R39) -/
  | noLpExpected
  /-- "a landing pad instruction is expected", encoded 1 (R39) -/
  | lpExpected
  deriving DecidableEq, Repr

/-- The byte-addressed space of 2^64 addresses that holds the program text (20_memory.md R100, R103, R106): the listed
bytes, in the canonical form `Memory.wf` of Machine/Ops.lean. What an unlisted address reads as is `Memory.unlisted` there. -/
abbrev Memory := List Host.Cell

/-- The state of one hart (R20). `sstatus` is a window and has no field (R46). -/
structure State where
  /-- `priv` (R20) -/
  priv : Priv
  /-- `V`, the virtualisation mode (R20): true is V=1 -/
  virt : Bool
  /-- the address of the instruction being executed (R23) -/
  pc : Word
  /-- `x[0..31]` (R22), read and written by `State.x` and `State.setX` of Machine/Operands.lean; slot 0 is never read -/
  regs : Vector Word 32
  /-- ELP (R24) -/
  elp : Elp
  /-- the shadow stack pointer (R54) -/
  ssp : Word
  /-- `menvcfg` as stored (R25) -/
  menvcfg : Word
  /-- `henvcfg` as stored (R30); bit 60 is gated (R64) -/
  henvcfg : Word
  /-- `mstatus` as stored (R35); bit 24 is gated (R64) -/
  mstatus : Word
  /-- `vsstatus` as stored (R50); bit 24 is gated (R64) -/
  vsstatus : Word
  /-- `mseccfg` as stored (R57), all but the field SSPMP: bits 16:11 are unused here and 0 -/
  mseccfg : Word
  /-- the field `mseccfg.SSPMP`, bits 16:11 of the CSR (R58) -/
  sspmp : BitVec 6
  /-- `dcsr` as stored (R62) -/
  dcsr : BitVec 32
  /-- the program text (R106, R110) -/
  mem : Memory
  /-- the MODEL's own field: how many free one-bit values have been drawn (R64, R164, R165; log 4) -/
  draws : Nat
  deriving DecidableEq, Repr

/-- What stops the machine as an event of its own. -/
inductive Fault where
  /-- The illegal-instruction exception (R230, R234): raised by a CSR instruction that fails the check of R162, R170 or
  names a CSR absent at MXLEN=64 (R28, R33). It carries the cause code, the trap value and the pc of the instruction. The
  spec describes no trap entry, so the run ends here: safe (log 9). -/
  | illegalInstruction (code : Nat) (tval : Word) (pc : Word)
  /-- A fetch at this pc needs a byte that the program text does not cover: the hart is stuck (R106). Raised by the fetch.
  Safe (log 14). -/
  | fetchOutsideText (pc : Word)
  deriving DecidableEq, Repr

/-- `refuse(reason)`: neither the source nor the spec gives the step a meaning (R236, a closed list). Every one is safe. -/
inductive Refusal where
  /-- an instruction whose meaning is not written; no arm of `exec` answers with it. Safe. -/
  | notModelled (mnemonic : String)
  /-- the fetched bits fit no row of R137 (R139). Raised by the step. Safe (log 35). -/
  | notInAdmittedSet
  /-- a CSR instruction names a CSR number outside R21 (R139). Safe (log 35). -/
  | csrNotInSpec
  /-- a guest access where the hypervisor extension would raise an exception the source never names (R162). Safe (log 7). -/
  | guestCsrAccess
  /-- a Zicfiss instruction where Zicfiss is active (R194 (a)). Safe (log 17). -/
  | zicfissActiveBehaviour
  /-- a Zicfiss instruction in M-mode (R194 (b)). Safe (log 17). -/
  | zicfissInMMode
  /-- `lpad` where Zicfilp is active (R213). Safe (log 17). -/
  | lpadActiveBehaviour
  /-- the step begins with ELP = LP_EXPECTED (R214). Raised by the step. Safe (log 16). -/
  | elpExpected
  /-- the next pc would pass 2^64 (R23). Safe (log 18). -/
  | pcWrap
  deriving DecidableEq, Repr

/-- RESET_PC (R4, R260, R262): OPEN in the spec. DESIGN CHOICE, log 10: the start address of the spec's program 3.1. -/
def resetPc : Word := 0x80000000#64

/-- The machine right after reset: the suggested column of R260 (every enable and previous-ELP holder 0, M-mode, V=0,
NO_LP_EXPECTED, SSPMP some legal value), and zero where it says unwritten or opaque. The spec states no reset value, so
every field is a DESIGN CHOICE (mode: PRESUMED, the family's): log 6 and 10 to 14. -/
def State.reset : State where
  priv := .M
  virt := false
  pc := resetPc
  regs := Vector.replicate 32 0#64
  elp := .noLpExpected
  ssp := 0#64
  menvcfg := 0#64
  henvcfg := 0#64
  mstatus := 0#64
  vsstatus := 0#64
  mseccfg := 0#64
  sspmp := Config.sspmpReset
  dcsr := 0#32
  mem := []
  draws := 0

end Sys2Proof.Machine
end

