-- ==== Sys2Proof/Machine/Defaults.lean ====
section
/-! DEFINITION. The default values of the configuration arguments `Config.Params` (00_scope.md R4): the machine of `exec` and
`step` is the one with these. -/

namespace Sys2Proof.Machine

/-- SSP_CSR_ADDR at its default (R4, R21; D3, G5): PRESUMED, log 1. -/
def sspCsrAddr : CsrNum := 0x011#12

/-- CSR_ADDR[name] at its defaults (R4, R21; D3, G5): PRESUMED, log 1. -/
def csrAddr : Csr → CsrNum
  | .ssp => sspCsrAddr
  | .sstatus => 0x100#12
  | .vsstatus => 0x200#12
  | .mstatus => 0x300#12
  | .menvcfg => 0x30A#12
  | .henvcfg => 0x60A#12
  | .mseccfg => 0x747#12
  | .dcsr => 0x7B0#12

/-- `csr_priv_ok(csr, priv, V)` at its default, the table of R162 (D12, G11): PRESUMED, log 7. The row of `ssp` passes in
every mode ("no mode fails the check of rule R162 for ssp", R170). M-mode is read without looking at V (R20; log 24). -/
def csrPrivOk (c : Csr) (p : Priv) (v : Bool) : PrivCheck :=
  match c, p, v with
  | .ssp, _, _ => .ok
  | .sstatus, .M, _ => .ok
  | .sstatus, .S, false => .ok
  | .sstatus, .U, false => .illegal
  | .sstatus, .S, true => .ok
  | .sstatus, .U, true => .refuse
  | .vsstatus, .M, _ => .ok
  | .vsstatus, .S, false => .ok
  | .vsstatus, .U, false => .illegal
  | .vsstatus, .S, true => .refuse
  | .vsstatus, .U, true => .refuse
  | .mstatus, .M, _ => .ok
  | .mstatus, .S, _ => .illegal
  | .mstatus, .U, _ => .illegal
  | .menvcfg, .M, _ => .ok
  | .menvcfg, .S, _ => .illegal
  | .menvcfg, .U, _ => .illegal
  | .henvcfg, .M, _ => .ok
  | .henvcfg, .S, false => .ok
  | .henvcfg, .U, false => .illegal
  | .henvcfg, .S, true => .refuse
  | .henvcfg, .U, true => .refuse
  | .mseccfg, .M, _ => .ok
  | .mseccfg, .S, _ => .illegal
  | .mseccfg, .U, _ => .illegal
  | .dcsr, _, _ => .illegal

/-- The configuration arguments at their defaults (R4). -/
def defaultParams : Config.Params :=
  { csrAddr := csrAddr, sspCsrAddr := sspCsrAddr, csrPrivOk := csrPrivOk, lpad := lpadDefault }

end Sys2Proof.Machine
end

