-- ==== Sys2Proof/Machine/Layout.lean ====
section
/-! DEFINITION. The CSR layouts field by field (10_state.md R25, R30, R35, R45, R50, R57, R62), as the source's figures give
them: names and widths from bit 0 upward (00_scope.md R5). Masks and positions are computed from the lists. -/

namespace Sys2Proof.Machine

/-- The field names of the figures. `wpri` is a reserved field, `zero` a field the `dcsr` figure names 0. -/
inductive FieldName where
  | wpri | zero
  | fiom | cbie | cbcfe | cbze | sfcfie | sbcfie | hade | pbmte | stce
  | sie | mie | spie | ube | mpie | spp | vs | mpp | fs | xs | mprv | sum | mxr | tvm | tw | tsr
  | ufcfie | ubcfie | spelp | mpelp | uxl | sxl | sbe | mbe | sd
  | mml | mmwp | rlb | useed | sseed | mfcfie | sspmp
  | prv | step | nmip | mprven | v | cause | stoptime | stopcount | stepie
  | ebreaku | ebreaks | ebreakm | ebreakvu | ebreakvs | pelp | debugver
  deriving DecidableEq, Repr

/-- A figure: its fields with their widths, from bit 0 upward (R5). -/
abbrev Layout := List (FieldName × Nat)

/-- `menvcfg` (R25) -/
def menvcfgLayout : Layout :=
  [(.fiom, 1), (.wpri, 3), (.cbie, 2), (.cbcfe, 1), (.cbze, 1), (.wpri, 51), (.sfcfie, 1), (.sbcfie, 1), (.hade, 1),
   (.pbmte, 1), (.stce, 1)]

/-- `henvcfg` (R30): entry for entry the list of `menvcfg` -/
def henvcfgLayout : Layout :=
  [(.fiom, 1), (.wpri, 3), (.cbie, 2), (.cbcfe, 1), (.cbze, 1), (.wpri, 51), (.sfcfie, 1), (.sbcfie, 1), (.hade, 1),
   (.pbmte, 1), (.stce, 1)]

/-- `mstatus` (R35) -/
def mstatusLayout : Layout :=
  [(.wpri, 1), (.sie, 1), (.wpri, 1), (.mie, 1), (.wpri, 1), (.spie, 1), (.ube, 1), (.mpie, 1), (.spp, 1), (.vs, 2),
   (.mpp, 2), (.fs, 2), (.xs, 2), (.mprv, 1), (.sum, 1), (.mxr, 1), (.tvm, 1), (.tw, 1), (.tsr, 1), (.ufcfie, 1),
   (.ubcfie, 1), (.spelp, 1), (.mpelp, 1), (.wpri, 5), (.uxl, 2), (.sxl, 2), (.sbe, 1), (.mbe, 1), (.wpri, 25), (.sd, 1)]

/-- `sstatus` (R45) -/
def sstatusLayout : Layout :=
  [(.wpri, 1), (.sie, 1), (.wpri, 3), (.spie, 1), (.ube, 1), (.wpri, 1), (.spp, 1), (.vs, 2), (.wpri, 2), (.fs, 2),
   (.xs, 2), (.wpri, 1), (.sum, 1), (.mxr, 1), (.wpri, 3), (.ufcfie, 1), (.ubcfie, 1), (.spelp, 1), (.wpri, 6), (.uxl, 2),
   (.wpri, 29), (.sd, 1)]

/-- `vsstatus` (R50): entry for entry the list of `sstatus` -/
def vsstatusLayout : Layout :=
  [(.wpri, 1), (.sie, 1), (.wpri, 3), (.spie, 1), (.ube, 1), (.wpri, 1), (.spp, 1), (.vs, 2), (.wpri, 2), (.fs, 2),
   (.xs, 2), (.wpri, 1), (.sum, 1), (.mxr, 1), (.wpri, 3), (.ufcfie, 1), (.ubcfie, 1), (.spelp, 1), (.wpri, 6), (.uxl, 2),
   (.wpri, 29), (.sd, 1)]

/-- `mseccfg` (R57) -/
def mseccfgLayout : Layout :=
  [(.mml, 1), (.mmwp, 1), (.rlb, 1), (.wpri, 5), (.useed, 1), (.sseed, 1), (.mfcfie, 1), (.sspmp, 6), (.wpri, 47)]

/-- `dcsr` (R62), 32 bits -/
def dcsrLayout : Layout :=
  [(.prv, 2), (.step, 1), (.nmip, 1), (.mprven, 1), (.v, 1), (.cause, 3), (.stoptime, 1), (.stopcount, 1), (.stepie, 1),
   (.ebreaku, 1), (.ebreaks, 1), (.zero, 1), (.ebreakm, 1), (.ebreakvu, 1), (.ebreakvs, 1), (.pelp, 1), (.zero, 9),
   (.debugver, 4)]

/-- The layout of a CSR; `ssp` is one field of 64 bits without a figure (R54), so its list is empty. -/
def layoutOf : Csr → Layout
  | .ssp => []
  | .sstatus => sstatusLayout
  | .vsstatus => vsstatusLayout
  | .mstatus => mstatusLayout
  | .menvcfg => menvcfgLayout
  | .henvcfg => henvcfgLayout
  | .mseccfg => mseccfgLayout
  | .dcsr => dcsrLayout

/-- The sum of the widths of a figure (R5). -/
def layoutWidth : Layout → Nat
  | [] => 0
  | (_, w) :: l => w + layoutWidth l

/-- The lowest bit of the first field of this name: the sum of the widths before it (R5), and its width. -/
def fieldAtFrom (p : Nat) (f : FieldName) : Layout → Option (Nat × Nat)
  | [] => none
  | (g, w) :: l => if g = f then some (p, w) else fieldAtFrom (p + w) f l

/-- The position (lowest bit, width) of a field in a figure (R5). -/
def fieldAt (l : Layout) (f : FieldName) : Option (Nat × Nat) := fieldAtFrom 0 f l

/-- The bits of the fields selected by `sel`, as a number, from bit `p` on. -/
def maskFrom (sel : FieldName → Bool) (p : Nat) : Layout → Nat
  | [] => 0
  | (f, w) :: l => (if sel f then (2 ^ w - 1) * 2 ^ p else 0) + maskFrom sel (p + w) l

/-- A field the two extensions introduced (R3 (b)). -/
def isCfiField : FieldName → Bool
  | .sfcfie | .sbcfie | .ufcfie | .ubcfie | .spelp | .mpelp | .mfcfie | .sspmp | .pelp => true
  | _ => false

/-- A reserved or constant-zero field: reads 0, ignores writes (R69). -/
def isReservedField : FieldName → Bool
  | .wpri | .zero => true
  | _ => false

/-- A field the source only draws (R68): a named field that neither extension introduced. -/
def isDrawnField (f : FieldName) : Bool := !isCfiField f && !isReservedField f

/-- The bit positions of the CFI fields of a figure. -/
def cfiMask (l : Layout) : Word := BitVec.ofNat 64 (maskFrom isCfiField 0 l)

/-- The bit positions of the fields the source only draws (R68). -/
def drawnMask (l : Layout) : Word := BitVec.ofNat 64 (maskFrom isDrawnField 0 l)

/-- The bit positions that are neither WPRI nor constant zero (R69): those a read shows. -/
def readMask (l : Layout) : Word := BitVec.ofNat 64 (maskFrom (fun f => !isReservedField f) 0 l)

/-- The value of a field of a CSR value `v`, as an unsigned number (R5); 0 for a name the figure does not have. -/
def fieldValue (l : Layout) (f : FieldName) (v : Word) : Nat :=
  match fieldAt l f with
  | some (p, w) => v.toNat / 2 ^ p % 2 ^ w
  | none => 0

end Sys2Proof.Machine
end

