-- ==== Sys2Proof/Machine/Operands.lean ====
section
/-! DEFINITION. Operands: bit-field updates, general registers, the immediate, CSR numbers, the Zicfiss word sets. -/

namespace Sys2Proof.Machine

/-! ### Bit fields -/

/-- `old` with the bits of `mask` taken from `new`. -/
def merge {k : Nat} (old mask new : BitVec k) : BitVec k := (old &&& ~~~mask) ||| (new &&& mask)

/-- The mask of one bit. -/
def bitMask (k i : Nat) : BitVec k := BitVec.ofNat k (2 ^ i)

/-- `v` with bit `i` set to `b`. -/
def putBit {k : Nat} (i : Nat) (b : Bool) (v : BitVec k) : BitVec k :=
  merge v (bitMask k i) (if b then bitMask k i else 0#k)

/-! ### General registers (10_state.md R22) -/

/-- `x[i]`: a read of general register i; `x[0]` reads 0 (R7, R22). -/
def State.x (s : State) (i : Reg) : Word := if i = 0#5 then 0#64 else s.regs[i.toNat]

/-- `x[i] <- v`: a write of general register i; a write to `x[0]` is discarded (R7, R22). -/
def State.setX (s : State) (i : Reg) (v : Word) : State :=
  if i = 0#5 then s else { s with regs := s.regs.set i.toNat v }

/-- `uimm = zext_64(w[19:15])`: zero-extended, never sign-extended (R136). -/
def zextUimm (uimm : BitVec 5) : Word := uimm.setWidth 64

/-! ### CSR numbers (10_state.md R21) -/

/-- The number of a CSR under the configuration `P` (R21). -/
def csrNumIn (P : Config.Params) : Csr → CsrNum
  | .ssp => P.sspCsrAddr
  | .sstatus => P.csrAddr .sstatus
  | .vsstatus => P.csrAddr .vsstatus
  | .mstatus => P.csrAddr .mstatus
  | .menvcfg => P.csrAddr .menvcfg
  | .henvcfg => P.csrAddr .henvcfg
  | .mseccfg => P.csrAddr .mseccfg
  | .dcsr => P.csrAddr .dcsr

/-- "The eight addresses must be pairwise distinct" (D3). -/
def distinctNums (P : Config.Params) : Prop := ∀ c d : Csr, csrNumIn P c = csrNumIn P d → c = d

/-- The conventional address of `menvcfgh`, which exists only when MXLEN=32 (R21, R28; D2, G18): PRESUMED, log 28. -/
def menvcfghAddr : CsrNum := 0x31A#12

/-- The conventional address of `henvcfgh` (R21, R33; D2, G18): PRESUMED, log 28. -/
def henvcfghAddr : CsrNum := 0x61A#12

/-- What a CSR number names. -/
inductive CsrTarget where
  /-- one of the eight CSRs of R21 -/
  | present (c : Csr)
  /-- `menvcfgh` or `henvcfgh`: does not exist at MXLEN=64 (R28, R33) -/
  | absent
  /-- a CSR this spec does not describe (R139) -/
  | notInSpec
  deriving DecidableEq, Repr

/-- The CSR a number names under the configuration `P` (R21, R139). -/
def csrTargetIn (P : Config.Params) (a : CsrNum) : CsrTarget :=
  if a = csrNumIn P .ssp then .present .ssp
  else if a = csrNumIn P .sstatus then .present .sstatus
  else if a = csrNumIn P .vsstatus then .present .vsstatus
  else if a = csrNumIn P .mstatus then .present .mstatus
  else if a = csrNumIn P .menvcfg then .present .menvcfg
  else if a = csrNumIn P .henvcfg then .present .henvcfg
  else if a = csrNumIn P .mseccfg then .present .mseccfg
  else if a = csrNumIn P .dcsr then .present .dcsr
  else if a = menvcfghAddr then .absent
  else if a = henvcfghAddr then .absent
  else .notInSpec

/-- The CSR a number names at the defaults (R21, R139). -/
def csrTarget (a : CsrNum) : CsrTarget := csrTargetIn defaultParams a

/-! ### The Zicfiss word sets (41_zicfiss_mop_fallback.md R195) -/

/-- `w` is a member of ZICFISS32, a set inside the Zimop encodings (R133, R195). -/
def inZicfiss32 (w : IWord) : Bool :=
  (fits w mopRMask mopRMatch || fits w mopRRMask mopRRMatch) && Config.zicfiss32 w

/-- `h` is a member of ZICFISS16, a set inside the Zcmop encodings (R134, R195). -/
def inZicfiss16 (h : Half) : Bool := fits h cmopMask cmopMatch && Config.zicfiss16 h

end Sys2Proof.Machine
end

