-- ==== Sys2Proof/Machine/Flags.lean ====
section
/-! DEFINITION. The flag-like state: ELP and its encoding (10_state.md R24, R39), the values of the enables under the
read-only-zero gating (R64), and the two activity predicates (R65, R66). There are no condition codes (R24). -/

namespace Sys2Proof.Machine

/-! ### ELP -/

/-- The encoding of a previous-ELP field (R39): NO_LP_EXPECTED 0, LP_EXPECTED 1. -/
def elpBit : Elp → Bool
  | .noLpExpected => false
  | .lpExpected => true

/-- What a previous-ELP field holds (R39). -/
def elpOfBit (b : Bool) : Elp := if b then .lpExpected else .noLpExpected

/-- `mstatus.MPELP` (R38) -/
def mstatusMPELP (s : State) : Elp := elpOfBit (s.mstatus.getLsbD 26)
/-- `mstatus.SPELP` (R38) -/
def mstatusSPELP (s : State) : Elp := elpOfBit (s.mstatus.getLsbD 25)
/-- `vsstatus.SPELP` (R53) -/
def vsstatusSPELP (s : State) : Elp := elpOfBit (s.vsstatus.getLsbD 25)
/-- `dcsr.pelp` (R63) -/
def dcsrPelp (s : State) : Elp := elpOfBit (s.dcsr.getLsbD 18)

/-! ### Zicfiss enables: `val` of R64 -/

/-- `val(menvcfg.SBCFIE)` (R26, R64) -/
def menvcfgSBCFIE (s : State) : Bool := s.menvcfg.getLsbD 60
/-- `val(henvcfg.SBCFIE)`: read-only zero when `menvcfg.SBCFIE` is 0 (R31, R64) -/
def henvcfgSBCFIE (s : State) : Bool := menvcfgSBCFIE s && s.henvcfg.getLsbD 60
/-- `val(mstatus.UBCFIE)`: read-only zero when `menvcfg.SBCFIE` is 0 (R36, R64) -/
def mstatusUBCFIE (s : State) : Bool := menvcfgSBCFIE s && s.mstatus.getLsbD 24
/-- `val(vsstatus.UBCFIE)`: read-only zero when `henvcfg.SBCFIE` reads 0 (R51, R64) -/
def vsstatusUBCFIE (s : State) : Bool := henvcfgSBCFIE s && s.vsstatus.getLsbD 24

/-! ### Zicfilp enables: ungated (R64) -/

/-- `menvcfg.SFCFIE` (R27) -/
def menvcfgSFCFIE (s : State) : Bool := s.menvcfg.getLsbD 59
/-- `henvcfg.SFCFIE` (R32) -/
def henvcfgSFCFIE (s : State) : Bool := s.henvcfg.getLsbD 59
/-- `mstatus.UFCFIE` (R37) -/
def mstatusUFCFIE (s : State) : Bool := s.mstatus.getLsbD 23
/-- `vsstatus.UFCFIE` (R52) -/
def vsstatusUFCFIE (s : State) : Bool := s.vsstatus.getLsbD 23
/-- `mseccfg.MFCFIE` (R59) -/
def mseccfgMFCFIE (s : State) : Bool := s.mseccfg.getLsbD 10

/-- `mseccfg.SSPMP`: the index of the PMP entry of the M-mode shadow stack region (R58, R101); it has no further effect. -/
def mseccfgSSPMP (s : State) : BitVec 6 := s.sspmp

/-! ### Where the extensions are active -/

/-- `ss_active(priv, V)` (R65): defined for the four modes less than M, and `none` in M-mode, where the source gives no
enable and no statement. -/
def ssActive (p : Priv) (v : Bool) (s : State) : Option Bool :=
  match p, v with
  | .S, false => some (menvcfgSBCFIE s)
  | .U, false => some (mstatusUBCFIE s)
  | .S, true => some (henvcfgSBCFIE s)
  | .U, true => some (vsstatusUBCFIE s)
  | .M, _ => none

/-- `lp_active(priv, V)` (R66). M-mode always has V=0 (R20); this one does not look at V there (log 24). -/
def lpActive (p : Priv) (v : Bool) (s : State) : Bool :=
  match p, v with
  | .M, _ => mseccfgMFCFIE s
  | .S, false => menvcfgSFCFIE s
  | .U, false => mstatusUFCFIE s
  | .S, true => henvcfgSFCFIE s
  | .U, true => vsstatusUFCFIE s

/-! ### Page-table encodings (20_memory.md R102) -/

/-- The two kinds of page tables the source names (R102). -/
inductive PtStage where
  /-- S-stage: translation with V=0 -/
  | sStage
  /-- VS-stage: the guest's first-stage tables, V=1 -/
  | vsStage
  deriving DecidableEq, Repr

/-- The encoding `xwr` (X first) of a page-table entry is one this chapter calls reserved in the state `s` (R102): 0b010
while the governing `SBCFIE` reads 0. The model has no translation, so nothing reads this (R106; log 30). -/
def pteXwrReserved (st : PtStage) (xwr : BitVec 3) (s : State) : Bool :=
  xwr == 2#3 && !(match st with
    | .sStage => menvcfgSBCFIE s
    | .vsStage => henvcfgSBCFIE s)

end Sys2Proof.Machine
end

