-- ==== Sys2Proof/Machine/Ops.lean ====
section
/-! DEFINITION. The named operations that every meaning shares: memory, instruction fetch, the advance of the pc, the
illegal-instruction exception, the precondition on ELP. -/

namespace Sys2Proof.Machine

/-! ### Memory (20_memory.md R100, R103, R106) -/

/-- The number of addresses of the space (R100). -/
def memTop : Nat := 2 ^ 64

/-- What an unlisted address reads as: no value, since the program text does not cover it (R106; log 14). -/
def Memory.unlisted : Option Byte := none

/-- The byte listed at an address. -/
def Memory.find : Memory → Nat → Option Byte
  | [], _ => Memory.unlisted
  | (b, v) :: m, a => if a = b then some v else Memory.find m a

/-- A read of one byte. An address outside the space does not exist and has no value (R100); no address of the machine
is one (log 33). -/
def Memory.read (m : Memory) (a : Nat) : Option Byte := if a < memTop then m.find a else none

/-- The list with the byte `v` at address `a`, in the canonical order. -/
def Memory.insert : Memory → Nat → Byte → Memory
  | [], a, v => [(a, v)]
  | (b, u) :: m, a, v =>
    if a < b then (a, v) :: (b, u) :: m
    else if a = b then (a, v) :: m
    else (b, u) :: Memory.insert m a v

/-- A write of one byte. An address outside the space does not exist: nothing is written (R100; log 33). -/
def Memory.write (m : Memory) (a : Nat) (v : Byte) : Memory := if a < memTop then m.insert a v else m

/-- Every address of the list is at least `lo`, below the top of the space, and the addresses rise strictly. -/
def Memory.wfFrom : Nat → Memory → Bool
  | _, [] => true
  | lo, (a, _) :: m => decide (lo ≤ a) && decide (a < memTop) && Memory.wfFrom (a + 1) m

/-- The canonical form: strictly rising addresses inside the space. (An unlisted address has no value, so no entry can equal
what an unlisted address reads as.) -/
def Memory.wf (m : Memory) : Bool := Memory.wfFrom 0 m

/-- `MemRead(addr, n)`: the `n` bytes at `addr`, `addr+1`, ... as one little-endian number, `+` modulo 2^64; none if one of them
has no value (R6, R7, R100, R103). -/
def Memory.readLE (m : Memory) : Word → Nat → Option Nat
  | _, 0 => some 0
  | a, n + 1 =>
    match m.read a.toNat, m.readLE (a + 1#64) n with
    | some b, some r => some (b.toNat + 256 * r)
    | some _, none => none
    | none, _ => none

/-- `MemWrite(addr, n, v)`: the `n` low bytes of `v`, little-endian, at `addr`, `addr+1`, ..., `+` modulo 2^64 (R6, R7, R100,
R103). -/
def Memory.writeLE (m : Memory) : Word → Nat → Nat → Memory
  | _, 0, _ => m
  | a, n + 1, v => (m.write a.toNat (BitVec.ofNat 8 v)).writeLE (a + 1#64) n (v / 256)

/-- `MemRead(addr, n)` of the hart (R100). No rule of the spec calls it. -/
def memRead (addr : Word) (n : Nat) (s : State) : Option Nat := s.mem.readLE addr n

/-- `MemWrite(addr, n, v)` of the hart (R100). No rule of the spec calls it, and no instruction does (R110). -/
def memWrite (addr : Word) (n v : Nat) (s : State) : State := { s with mem := s.mem.writeLE addr n v }

/-! ### Fetch (30_encoding.md R130, 20_memory.md R103, R106) -/

/-- The bytes that the text covers from address `a` on, `+` modulo 2^64, at most `n` (R6, R103, R106). -/
def Memory.window (m : Memory) : Word → Nat → List Byte
  | _, 0 => []
  | a, n + 1 =>
    match m.read a.toNat with
    | some b => b :: m.window (a + 1#64) n
    | none => []

/-- The bytes at the pc, up to the longest instruction (R130). -/
def fetchBytes (s : State) : List Byte := s.mem.window s.pc 4

/-- The instruction at the pc, for the `lpad` pattern `L` (R130, R135, R137). -/
def fetchDecodeIn (L : Config.LpadCode) (s : State) : Except DecodeError Instr :=
  match decodeIn L (fetchBytes s) with
  | .ok (i, _) => .ok i
  | .error e => .error e

/-- The instruction at the pc (R130, R137). -/
def fetchDecode (s : State) : Except DecodeError Instr := fetchDecodeIn lpadDefault s

/-- How a step ends whose fetch gives no instruction: stuck outside the text (R106), refused outside the admitted set
(R130, R139). -/
def decodeStop (e : DecodeError) (s : State) : Host.Outcome State Fault Refusal :=
  match e with
  | .truncated => .fault (.fetchOutsideText s.pc)
  | .longEncoding => .refused .notInAdmittedSet
  | .notInAdmittedSet => .refused .notInAdmittedSet

/-- The bytes of an instruction given as bits, stored where the step fetches: at the pc (R103). -/
def placeAtPc (nbits w : Nat) (s : State) : State := memWrite s.pc 4 (w % 2 ^ nbits) s

/-! ### The precondition of every step (42_zicfilp_lpad_elp.md R214) -/

/-- A step begun with ELP = LP_EXPECTED is refused whatever the instruction (R214; D8; log 16). -/
def elpPrecondition (s : State) : Option Refusal :=
  match s.elp with
  | .noLpExpected => none
  | .lpExpected => some .elpExpected

/-! ### The pc (10_state.md R23) -/

/-- The end of an instruction of `n` bytes that completes: `pc <- pc + n`; refused where that passes 2^64 (R23; D15;
log 18). -/
def advance (n : Nat) (s : State) : Host.Outcome State Fault Refusal :=
  if s.pc.toNat + n < memTop then .next { s with pc := s.pc + BitVec.ofNat 64 n } else .refused .pcWrap

/-! ### The illegal-instruction exception (60_exceptions.md R230 to R234) -/

/-- ILLEGAL_INSN_CODE = 2 (R4, R231; D11, G12): PRESUMED, log 8. -/
def illegalInsnCode : Nat := 2

/-- `raise IllegalInstruction(w)` (R7, R234): no register, no CSR, not `ssp`, not ELP and not the pc changes, and the step's
outcome is the fault with code, trap value and pc. The spec describes no trap entry and no return (R234, R235, R237; N1,
N10), so there is neither here: log 9. -/
def raiseIllegalInstruction (w : IWord) (s : State) : Host.Outcome State Fault Refusal :=
  .fault (.illegalInstruction illegalInsnCode (Config.illegalTval w) s.pc)

end Sys2Proof.Machine
end

