-- ==== Sys2Proof/Machine/Csr.lean ====
section
/-! DEFINITION. CSR access: the check (40_csr_access.md R162, R170), what each CSR returns and stores (R164 to R170, R177,
R178), and the order of a CSR instruction (R160, R161). -/

namespace Sys2Proof.Machine

/-! ### The access check -/

/-- The gate of `ssp` (R170): passes in M-mode, and in a mode less than M exactly where Zicfiss is active. -/
def sspPasses (s : State) : Bool :=
  match ssActive s.priv s.virt s with
  | none => true
  | some a => a

/-- The result of the access check of a CSR instruction. -/
inductive CsrAccess where
  /-- the instruction goes on, with this CSR -/
  | ok (c : Csr)
  /-- it raises the illegal-instruction exception -/
  | illegal
  /-- it is refused -/
  | refuse (r : Refusal)
  deriving DecidableEq, Repr

/-- The access check, step (2) of R161, under the configuration `P`: the number names a CSR (R139, R28); for `ssp` the gate of
R170 is open, which is "the only gate" there, so `csr_priv_ok` is not asked; for any other CSR the mode may access it (R162). -/
def csrAccessIn (P : Config.Params) (a : CsrNum) (s : State) : CsrAccess :=
  match csrTargetIn P a with
  | .notInSpec => .refuse .csrNotInSpec
  | .absent => .illegal
  | .present .ssp => if sspPasses s then .ok .ssp else .illegal
  | .present c =>
    match P.csrPrivOk c s.priv s.virt with
    | .ok => .ok c
    | .illegal => .illegal
    | .refuse => .refuse .guestCsrAccess

/-- The access check at the defaults (R162, R170). -/
def csrAccess (a : CsrNum) (s : State) : CsrAccess := csrAccessIn defaultParams a s

/-! ### Reads -/

/-- `csr_read(menvcfg)` (R164): bit 60, bit 59 and the drawn fields as stored; WPRI reads 0 (R69). -/
def readMenvcfg (s : State) : Word := s.menvcfg &&& readMask menvcfgLayout

/-- `csr_read(henvcfg)` (R165): bit 60 is the gated value. -/
def readHenvcfg (s : State) : Word := putBit 60 (henvcfgSBCFIE s) (s.henvcfg &&& readMask henvcfgLayout)

/-- `csr_read(mstatus)` (R166): bit 24 is the gated value. -/
def readMstatus (s : State) : Word := putBit 24 (mstatusUBCFIE s) (s.mstatus &&& readMask mstatusLayout)

/-- `csr_read(vsstatus)` (R168): bit 24 is the gated value. -/
def readVsstatus (s : State) : Word := putBit 24 (vsstatusUBCFIE s) (s.vsstatus &&& readMask vsstatusLayout)

/-- `csr_read(sstatus)` (R167): the target T is `mstatus` if V=0 and `vsstatus` if V=1 (R46, R47); the WPRI positions of
`sstatus` read 0 whatever T holds there. -/
def readSstatus (s : State) : Word :=
  if s.virt then putBit 24 (vsstatusUBCFIE s) (s.vsstatus &&& readMask sstatusLayout)
  else putBit 24 (mstatusUBCFIE s) (s.mstatus &&& readMask sstatusLayout)

/-- The bit positions of SSPMP in `mseccfg` (R57). -/
def sspmpMask : Word := 0x1F800#64

/-- A value of SSPMP at its place in `mseccfg` (R57). -/
def placeSspmp (v : BitVec 6) : Word := (0#47 ++ v ++ 0#11).cast rfl

/-- `csr_read(mseccfg)` (R169). -/
def readMseccfg (s : State) : Word := merge (s.mseccfg &&& readMask mseccfgLayout) sspmpMask (placeSspmp (mseccfgSSPMP s))

/-- `csr_read(dcsr)` (R62, R177): zero-extended to 64 bits, the constant-zero fields 0. No mode of the model gets here. -/
def readDcsr (s : State) : Word := s.dcsr.setWidth 64 &&& readMask dcsrLayout

/-- `csr_read(a)` for the CSR at `a` (R7, R164 to R170, R177). It has no side effect (R105). -/
def csrRead (c : Csr) (s : State) : Word :=
  match c with
  | .ssp => s.ssp
  | .sstatus => readSstatus s
  | .vsstatus => readVsstatus s
  | .mstatus => readMstatus s
  | .menvcfg => readMenvcfg s
  | .henvcfg => readHenvcfg s
  | .mseccfg => readMseccfg s
  | .dcsr => readDcsr s

/-! ### Writes -/

/-- A register after a write of `v` to its CFI bits `cfi` and of what legalisation leaves to its drawn bits `drawn`; every
other bit unchanged (R68, R69). -/
def writeFields (old cfi v drawn legal : Word) : Word := merge (merge old cfi v) drawn legal

/-- The CFI bits a write reaches: bit `i` only while its gate is open (R64). -/
def gatedMask (l : Layout) (i : Nat) (gate : Bool) : Word :=
  if gate then cfiMask l else cfiMask l &&& ~~~bitMask 64 i

/-- The gate of `henvcfg.SBCFIE` and `mstatus.UBCFIE` has just opened (R164): both take free values, and
`vsstatus.UBCFIE` too if its own gate opened with it (R64, U6; log 4). -/
def drawAtMenvcfgGate (s : State) : State :=
  { s with
    henvcfg := putBit 60 (Config.draw s.draws) s.henvcfg
    mstatus := putBit 24 (Config.draw (s.draws + 1)) s.mstatus
    vsstatus := if Config.draw s.draws then putBit 24 (Config.draw (s.draws + 2)) s.vsstatus else s.vsstatus
    draws := s.draws + 3 }

/-- The gate of `vsstatus.UBCFIE` has just opened (R165): it takes a free value (R64, U6; log 4). -/
def drawAtHenvcfgGate (s : State) : State :=
  { s with vsstatus := putBit 24 (Config.draw s.draws) s.vsstatus, draws := s.draws + 1 }

/-- `csr_write(menvcfg, v)` without the draws (R164). -/
def storeMenvcfg (v : Word) (s : State) : State :=
  { s with
    menvcfg :=
      writeFields s.menvcfg (cfiMask menvcfgLayout) v (drawnMask menvcfgLayout)
        (Config.legalizeOther .menvcfg (readMenvcfg s) v) }

/-- `csr_write(menvcfg, v)` (R164). -/
def writeMenvcfg (v : Word) (s : State) : State :=
  if !menvcfgSBCFIE s && v.getLsbD 60 then drawAtMenvcfgGate (storeMenvcfg v s) else storeMenvcfg v s

/-- `csr_write(henvcfg, v)` without the draw (R165): bit 60 changes only while `menvcfg.SBCFIE` is 1. -/
def storeHenvcfg (v : Word) (s : State) : State :=
  { s with
    henvcfg :=
      writeFields s.henvcfg (gatedMask henvcfgLayout 60 (menvcfgSBCFIE s)) v (drawnMask henvcfgLayout)
        (Config.legalizeOther .henvcfg (readHenvcfg s) v) }

/-- `csr_write(henvcfg, v)` (R165). -/
def writeHenvcfg (v : Word) (s : State) : State :=
  if !henvcfgSBCFIE s && henvcfgSBCFIE (storeHenvcfg v s) then drawAtHenvcfgGate (storeHenvcfg v s) else storeHenvcfg v s

/-- `csr_write(mstatus, v)` (R166): bit 24 changes only while `menvcfg.SBCFIE` is 1. -/
def writeMstatus (v : Word) (s : State) : State :=
  { s with
    mstatus :=
      writeFields s.mstatus (gatedMask mstatusLayout 24 (menvcfgSBCFIE s)) v (drawnMask mstatusLayout)
        (Config.legalizeOther .mstatus (readMstatus s) v) }

/-- `csr_write(vsstatus, v)` (R168): bit 24 changes only while `henvcfg.SBCFIE` reads 1. -/
def writeVsstatus (v : Word) (s : State) : State :=
  { s with
    vsstatus :=
      writeFields s.vsstatus (gatedMask vsstatusLayout 24 (henvcfgSBCFIE s)) v (drawnMask vsstatusLayout)
        (Config.legalizeOther .vsstatus (readVsstatus s) v) }

/-- `csr_write(sstatus, v)` (R167): the fields of `sstatus` in the target T, every other bit of T unchanged, `mstatus.MPELP`
among them. -/
def writeSstatus (v : Word) (s : State) : State :=
  if s.virt then
    { s with
      vsstatus :=
        writeFields s.vsstatus (gatedMask sstatusLayout 24 (henvcfgSBCFIE s)) v (drawnMask sstatusLayout)
          (Config.legalizeOther .sstatus (readSstatus s) v) }
  else
    { s with
      mstatus :=
        writeFields s.mstatus (gatedMask sstatusLayout 24 (menvcfgSBCFIE s)) v (drawnMask sstatusLayout)
          (Config.legalizeOther .sstatus (readSstatus s) v) }

/-- What a write of `w` to SSPMP leaves in it (R58, R169). -/
def legalSspmp (old w : BitVec 6) : BitVec 6 :=
  if Config.sspmpLegal w then w else Config.sspmpLegalize old w

/-- `csr_write(mseccfg, v)` without its effect on ELP (R169). -/
def storeMseccfg (v : Word) (s : State) : State :=
  { s with
    mseccfg :=
      writeFields s.mseccfg (cfiMask mseccfgLayout &&& ~~~sspmpMask) v (drawnMask mseccfgLayout)
        (Config.legalizeOther .mseccfg (readMseccfg s) v)
    sspmp := legalSspmp (mseccfgSSPMP s) (v.extractLsb' 11 6) }

/-- A write to `mseccfg` in M-mode that leaves MFCFIE = 0 sets ELP to NO_LP_EXPECTED (R178; D23; log 31). -/
def clearElpIfInactive (s : State) : State :=
  if s.priv = .M ∧ mseccfgMFCFIE s = false then { s with elp := .noLpExpected } else s

/-- `csr_write(mseccfg, v)` (R169, R178). -/
def writeMseccfg (v : Word) (s : State) : State := clearElpIfInactive (storeMseccfg v s)

/-- `csr_write(dcsr, v)` (R177): the low 32 bits; the constant-zero fields ignore the write. No mode of the model gets here. -/
def writeDcsr (v : Word) (s : State) : State :=
  { s with
    dcsr :=
      (writeFields (s.dcsr.setWidth 64) (cfiMask dcsrLayout) v (drawnMask dcsrLayout)
        (Config.legalizeOther .dcsr (readDcsr s) v)).setWidth 32 }

/-- `csr_write(a, v)` for the CSR at `a` (R7, R164 to R170, R177, R178). -/
def csrWrite (c : Csr) (v : Word) (s : State) : State :=
  match c with
  | .ssp => { s with ssp := v }
  | .sstatus => writeSstatus v s
  | .vsstatus => writeVsstatus v s
  | .mstatus => writeMstatus v s
  | .menvcfg => writeMenvcfg v s
  | .henvcfg => writeHenvcfg v s
  | .mseccfg => writeMseccfg v s
  | .dcsr => writeDcsr v s

/-! ### The instruction -/

/-- The write access of a CSR instruction, if it makes one (R160). -/
def csrWriteIf (writes : Bool) (c : Csr) (v : Word) (s : State) : State := if writes then csrWrite c v s else s

/-- The destination register gets the value read, if the instruction reads (R160, R161 (6)). -/
def setXIf (reads : Bool) (rd : Reg) (v : Word) (s : State) : State := if reads then s.setX rd v else s

/-- A CSR instruction with the word `w` (R161) under the configuration `P`: the access check; then the CSR is read,
`newValue` of the value read is written to it, `x[rd]` gets the value read, and the pc advances. `reads` and `writes` are
R160's. `newValue` holds the source operand read before any write, so `rd = rs1` is well defined. The precondition (1) of
R161 is the step's (R214). -/
def csrInstructionIn (P : Config.Params) (w : IWord) (a : CsrNum) (rd : Reg) (reads writes : Bool)
    (newValue : Word → Word) (s : State) : Host.Outcome State Fault Refusal :=
  match csrAccessIn P a s with
  | .refuse r => .refused r
  | .illegal => raiseIllegalInstruction w s
  | .ok c => advance 4 (setXIf reads rd (csrRead c s) (csrWriteIf writes c (newValue (csrRead c s)) s))

/-- A CSR instruction at the defaults (R161). -/
def csrInstruction (w : IWord) (a : CsrNum) (rd : Reg) (reads writes : Bool) (newValue : Word → Word) (s : State) :
    Host.Outcome State Fault Refusal :=
  csrInstructionIn defaultParams w a rd reads writes newValue s

end Sys2Proof.Machine
end

