-- ==== Sys2Proof/Machine/CsrInstr.lean ====
section
/-! DEFINITION. The six CSR instructions (40_csr_access.md R171 to R176): under any configuration, and at the defaults, which
`exec` runs. -/

namespace Sys2Proof.Machine

/-- `csrrw rd, csr, rs1` (R171): no read access if `rd = x0`; always writes `x[rs1]`. Under the configuration `P`. -/
def csrrwIn (P : Config.Params) (rd : Reg) (csr : CsrNum) (rs1 : Reg) (s : State) : Host.Outcome State Fault Refusal :=
  csrInstructionIn P (csrWord csr rs1 1 rd) csr rd (rd != 0#5) true (fun _ => s.x rs1) s

/-- `csrrs rd, csr, rs1` (R172): always reads; writes the value read OR `x[rs1]` iff the register number `rs1` is not 0. Under
the configuration `P`. -/
def csrrsIn (P : Config.Params) (rd : Reg) (csr : CsrNum) (rs1 : Reg) (s : State) : Host.Outcome State Fault Refusal :=
  csrInstructionIn P (csrWord csr rs1 2 rd) csr rd true (rs1 != 0#5) (fun t => t ||| s.x rs1) s

/-- `csrrc rd, csr, rs1` (R173): always reads; writes the value read AND NOT `x[rs1]` iff `rs1` is not 0. Under the
configuration `P`. -/
def csrrcIn (P : Config.Params) (rd : Reg) (csr : CsrNum) (rs1 : Reg) (s : State) : Host.Outcome State Fault Refusal :=
  csrInstructionIn P (csrWord csr rs1 3 rd) csr rd true (rs1 != 0#5) (fun t => t &&& ~~~(s.x rs1)) s

/-- `csrrwi rd, csr, uimm` (R174): no read access if `rd = x0`; always writes the zero-extended immediate. Under the
configuration `P`. -/
def csrrwiIn (P : Config.Params) (rd : Reg) (csr : CsrNum) (uimm : BitVec 5) (s : State) : Host.Outcome State Fault Refusal :=
  csrInstructionIn P (csrWord csr uimm 5 rd) csr rd (rd != 0#5) true (fun _ => zextUimm uimm) s

/-- `csrrsi rd, csr, uimm` (R175): always reads; writes the value read OR the immediate iff the 5-bit field is not 0. Under
the configuration `P`. -/
def csrrsiIn (P : Config.Params) (rd : Reg) (csr : CsrNum) (uimm : BitVec 5) (s : State) : Host.Outcome State Fault Refusal :=
  csrInstructionIn P (csrWord csr uimm 6 rd) csr rd true (uimm != 0#5) (fun t => t ||| zextUimm uimm) s

/-- `csrrci rd, csr, uimm` (R176): always reads; writes the value read AND NOT the immediate iff the field is not 0. Under the
configuration `P`. -/
def csrrciIn (P : Config.Params) (rd : Reg) (csr : CsrNum) (uimm : BitVec 5) (s : State) : Host.Outcome State Fault Refusal :=
  csrInstructionIn P (csrWord csr uimm 7 rd) csr rd true (uimm != 0#5) (fun t => t &&& ~~~(zextUimm uimm)) s

/-- `csrrw` at the defaults (R171). -/
def execCsrrw (rd : Reg) (csr : CsrNum) (rs1 : Reg) (s : State) : Host.Outcome State Fault Refusal :=
  csrrwIn defaultParams rd csr rs1 s

/-- `csrrs` at the defaults (R172). -/
def execCsrrs (rd : Reg) (csr : CsrNum) (rs1 : Reg) (s : State) : Host.Outcome State Fault Refusal :=
  csrrsIn defaultParams rd csr rs1 s

/-- `csrrc` at the defaults (R173). -/
def execCsrrc (rd : Reg) (csr : CsrNum) (rs1 : Reg) (s : State) : Host.Outcome State Fault Refusal :=
  csrrcIn defaultParams rd csr rs1 s

/-- `csrrwi` at the defaults (R174). -/
def execCsrrwi (rd : Reg) (csr : CsrNum) (uimm : BitVec 5) (s : State) : Host.Outcome State Fault Refusal :=
  csrrwiIn defaultParams rd csr uimm s

/-- `csrrsi` at the defaults (R175). -/
def execCsrrsi (rd : Reg) (csr : CsrNum) (uimm : BitVec 5) (s : State) : Host.Outcome State Fault Refusal :=
  csrrsiIn defaultParams rd csr uimm s

/-- `csrrci` at the defaults (R176). -/
def execCsrrci (rd : Reg) (csr : CsrNum) (uimm : BitVec 5) (s : State) : Host.Outcome State Fault Refusal :=
  csrrciIn defaultParams rd csr uimm s

end Sys2Proof.Machine
end

