-- ==== Sys2Proof/Machine/Lpad.lean ====
section
/-! DEFINITION. The landing pad instruction (42_zicfilp_lpad_elp.md R211). -/

namespace Sys2Proof.Machine

/-- `lpad LPL` (R211): a no-op where Zicfilp is not active, whatever the label; refused where it is active (R213). The label is
not read. -/
def execLpad (_lpl : BitVec 20) (s : State) : Host.Outcome State Fault Refusal :=
  if lpActive s.priv s.virt s then .refused .lpadActiveBehaviour else advance 4 s

end Sys2Proof.Machine
end

