-- ==== Sys2Proof/Machine/Mop.lean ====
section
/-! DEFINITION. The may-be-operations and the Zicfiss instructions inside them (41_zicfiss_mop_fallback.md R190 to R196). -/

namespace Sys2Proof.Machine

/-- The "Zimop defined behavior" (R193): `x[rd] <- 0`, `pc <- pc + 4`. PRESUMED (G8), log 29. -/
def zimopBehaviour (rd : Reg) (s : State) : Host.Outcome State Fault Refusal := advance 4 (s.setX rd 0#64)

/-- The "Zcmop defined behavior" (R196): `pc <- pc + 2`, no register written. PRESUMED (G9), log 29. -/
def zcmopBehaviour (s : State) : Host.Outcome State Fault Refusal := advance 2 s

/-- Dispatch of a MOP word (R190): a word that is no Zicfiss instruction executes its plain behaviour; a Zicfiss instruction
is refused in M-mode and where Zicfiss is active (R194), and reverts to the plain behaviour elsewhere (R191, R192). -/
def zicfissDispatch (member : Bool) (plain : Host.Outcome State Fault Refusal) (s : State) :
    Host.Outcome State Fault Refusal :=
  if member then
    match ssActive s.priv s.virt s with
    | none => .refused .zicfissInMMode
    | some true => .refused .zicfissActiveBehaviour
    | some false => plain
  else plain

/-- `mop.r.n rd, rs1` (R190, R193); the value of `x[rs1]` is not used. -/
def execMopRN (n : BitVec 5) (rd rs1 : Reg) (s : State) : Host.Outcome State Fault Refusal :=
  zicfissDispatch (inZicfiss32 (mopRWord n rs1 rd)) (zimopBehaviour rd s) s

/-- `mop.rr.n rd, rs1, rs2` (R190, R193); the values of `x[rs1]` and `x[rs2]` are not used. -/
def execMopRRN (n : BitVec 3) (rd rs1 rs2 : Reg) (s : State) : Host.Outcome State Fault Refusal :=
  zicfissDispatch (inZicfiss32 (mopRRWord n rs2 rs1 rd)) (zimopBehaviour rd s) s

/-- `c.mop.n` (R190, R196). An even `n`, which is no instruction (R134), acts as `n + 1` (log 38). -/
def execCmopN (n : BitVec 4) (s : State) : Host.Outcome State Fault Refusal :=
  zicfissDispatch (inZicfiss16 (cmopHalf n)) (zcmopBehaviour s) s

end Sys2Proof.Machine
end

