-- ==== Sys2Proof/Machine/Dispatch.lean ====
section
/-! DEFINITION. The meaning of every instruction of the admitted set (30_encoding.md R137). -/

namespace Sys2Proof.Machine

def exec (i : Instr) (s : State) : Host.Outcome State Fault Refusal :=
  match i with
  | .csrrw rd csr rs1 => Sys2Proof.Machine.execCsrrw rd csr rs1 s
  | .csrrs rd csr rs1 => Sys2Proof.Machine.execCsrrs rd csr rs1 s
  | .csrrc rd csr rs1 => Sys2Proof.Machine.execCsrrc rd csr rs1 s
  | .csrrwi rd csr uimm => Sys2Proof.Machine.execCsrrwi rd csr uimm s
  | .csrrsi rd csr uimm => Sys2Proof.Machine.execCsrrsi rd csr uimm s
  | .csrrci rd csr uimm => Sys2Proof.Machine.execCsrrci rd csr uimm s
  | .mopRN n rd rs1 => Sys2Proof.Machine.execMopRN n rd rs1 s
  | .mopRRN n rd rs1 rs2 => Sys2Proof.Machine.execMopRRN n rd rs1 rs2 s
  | .cmopN n => Sys2Proof.Machine.execCmopN n s
  | .lpad lpl => Sys2Proof.Machine.execLpad lpl s

end Sys2Proof.Machine
end

