-- ==== Sys2Proof/Machine/Step.lean ====
section
/-! DEFINITION. One step of the hart (00_scope.md R8): the precondition on ELP (42_zicfilp_lpad_elp.md R214), fetch and decode
at the pc (30_encoding.md R130, R137), and the instruction's own meaning, which advances the pc. -/

namespace Sys2Proof.Machine

/-- One step (R8, R214, R130, R137). -/
def step (s : State) : Host.Outcome State Fault Refusal :=
  match elpPrecondition s with
  | some r => .refused r
  | none =>
    match fetchDecode s with
    | .error e => decodeStop e s
    | .ok i => exec i s

/-- `s` with the instruction of `nbits` bits `w` stored where the step fetches: in the program text at the pc. It stands for the
load of a program from outside the machine (R110, R262; log 15). -/
def State.withFetchWord (s : State) (nbits w : Nat) : State := placeAtPc nbits w s

end Sys2Proof.Machine
end

