-- ==== Sys2Proof/Machine/Configured.lean ====
section
/-! DEFINITION. The machine under any configuration (00_scope.md R4): `exec` and `step` are the instances at `defaultParams`. -/

namespace Sys2Proof.Machine

/-- The meaning of an instruction under the configuration `P` (R4, R137). Only the CSR instructions ask it. -/
def execIn (P : Config.Params) (i : Instr) (s : State) : Host.Outcome State Fault Refusal :=
  match i with
  | .csrrw rd csr rs1 => csrrwIn P rd csr rs1 s
  | .csrrs rd csr rs1 => csrrsIn P rd csr rs1 s
  | .csrrc rd csr rs1 => csrrcIn P rd csr rs1 s
  | .csrrwi rd csr uimm => csrrwiIn P rd csr uimm s
  | .csrrsi rd csr uimm => csrrsiIn P rd csr uimm s
  | .csrrci rd csr uimm => csrrciIn P rd csr uimm s
  | .mopRN n rd rs1 => execMopRN n rd rs1 s
  | .mopRRN n rd rs1 rs2 => execMopRRN n rd rs1 rs2 s
  | .cmopN n => execCmopN n s
  | .lpad lpl => execLpad lpl s

/-- One step under the configuration `P` (R4, R8, R214, R130, R137). -/
def stepIn (P : Config.Params) (s : State) : Host.Outcome State Fault Refusal :=
  match elpPrecondition s with
  | some r => .refused r
  | none =>
    match fetchDecodeIn P.lpad s with
    | .error e => decodeStop e s
    | .ok i => execIn P i s

end Sys2Proof.Machine
end

