-- ==== Sys2Proof/Safety.lean ====
section
/-! DEFINITION. What counts as a safe run, the invariant of the hart, and the words the statements use for what an instruction
leaves unchanged. -/

namespace Sys2Proof.Machine

/-! ### Runs -/

/-- `k` steps from `s` end in a next state: no fault and no refusal on the way (a run that contains a refusal supports no
claim, R236; a faulted state is never final, R234). -/
def runsSafely (k : Nat) (s : State) : Prop := ∃ t : State, Host.Core.run Sys2Proof.core k s = .next t

/-! ### The invariant -/

/-- `V=1` only when `priv` is `U` or `S` (R20). -/
def modeLegal (s : State) : Prop := s.priv = .M → s.virt = false

/-- The pc is a multiple of 2 (R23, R104). -/
def pcEven (s : State) : Prop := s.pc.toNat % 2 = 0

/-- The unused slot of `x[0]` stays 0 (R22). -/
def zeroSlot (s : State) : Prop := s.regs[0] = 0

/-- The stored reserved and constant-zero positions of every CSR are 0 (R69, R62). -/
def reservedZero (s : State) : Prop :=
  s.menvcfg &&& ~~~readMask menvcfgLayout = 0 ∧ s.henvcfg &&& ~~~readMask henvcfgLayout = 0 ∧
  s.mstatus &&& ~~~readMask mstatusLayout = 0 ∧ s.vsstatus &&& ~~~readMask vsstatusLayout = 0 ∧
  s.mseccfg &&& ~~~(readMask mseccfgLayout &&& ~~~sspmpMask) = 0 ∧ s.dcsr.setWidth 64 &&& ~~~readMask dcsrLayout = 0

/-- SSPMP holds a legal value (R58, R169, R261). -/
def sspmpIsLegal (s : State) : Prop := Config.sspmpLegal (mseccfgSSPMP s) = true

/-- `lp_active(priv, V) = 0` implies `ELP = NO_LP_EXPECTED` (R67). -/
def elpInvariant (s : State) : Prop := lpActive s.priv s.virt s = false → s.elp = .noLpExpected

/-- The invariant of the hart (R20, R22, R23, R58, R67, R69, R261) and of the model's memory. -/
structure Inv (s : State) : Prop where
  mode : modeLegal s
  pc : pcEven s
  slot0 : zeroSlot s
  reserved : reservedZero s
  sspmp : sspmpIsLegal s
  elp : elpInvariant s
  mem : s.mem.wf = true

/-! ### Frames -/

/-- Neither the privilege nor the virtualisation mode differs. -/
def sameMode (s t : State) : Prop := t.priv = s.priv ∧ t.virt = s.virt

/-- Every byte of memory reads as before. -/
def sameMemory (s t : State) : Prop := ∀ a : Nat, t.mem.read a = s.mem.read a

/-- Every general register but `rd` reads as before. -/
def sameRegsBut (rd : Reg) (s t : State) : Prop := ∀ r : Reg, r ≠ rd → t.x r = s.x r

/-- Every general register reads as before. -/
def sameRegs (s t : State) : Prop := ∀ r : Reg, t.x r = s.x r

/-- Every stored CSR is as before; `ssp` is not among them. -/
def sameStoredCsrs (s t : State) : Prop :=
  t.menvcfg = s.menvcfg ∧ t.henvcfg = s.henvcfg ∧ t.mstatus = s.mstatus ∧ t.vsstatus = s.vsstatus ∧
  t.mseccfg = s.mseccfg ∧ t.sspmp = s.sspmp ∧ t.dcsr = s.dcsr

/-- Nothing differs but general registers and the pc: mode, ELP, `ssp`, every stored CSR, every byte of memory, and the
model's own counter are as before. -/
def sameButRegsPc (s t : State) : Prop :=
  sameMode s t ∧ t.elp = s.elp ∧ t.ssp = s.ssp ∧ sameStoredCsrs s t ∧ sameMemory s t ∧ t.draws = s.draws

/-- What a CSR instruction that completes leaves, where `u` is the state after its write access (or `s` if it makes none)
and `old` the value read: the pc four bytes on, `x[rd]` the old value (`x[0]` stays 0), every other general register, the mode
and every byte of memory as in `s`, everything else as in `u` (R161). -/
def csrResult (s u : State) (rd : Reg) (old : Word) (t : State) : Prop :=
  t.pc = s.pc + 4#64 ∧ (rd ≠ 0#5 → t.x rd = old) ∧ t.x 0#5 = 0#64 ∧ sameRegsBut rd s t ∧ sameMode s t ∧ sameMemory s t ∧
  sameButRegsPc u t

/-- Mode, pc, general registers and memory are as before: what no CSR write changes. -/
def sameHart (s t : State) : Prop := sameMode s t ∧ t.pc = s.pc ∧ sameRegs s t ∧ sameMemory s t

/-- The six CSR instructions with these operands, each with its word (R131); `src` is `rs1` or `uimm`. -/
def csrForms (rd : Reg) (csr : CsrNum) (src : BitVec 5) : List (Instr × IWord) :=
  [(.csrrw rd csr src, csrWord csr src 1 rd), (.csrrs rd csr src, csrWord csr src 2 rd),
   (.csrrc rd csr src, csrWord csr src 3 rd), (.csrrwi rd csr src, csrWord csr src 5 rd),
   (.csrrsi rd csr src, csrWord csr src 6 rd), (.csrrci rd csr src, csrWord csr src 7 rd)]

/-- The CSR number that an instruction addresses; none for the others (R160). -/
def csrNumOf : Instr → Option CsrNum
  | .csrrw _ csr _ => some csr
  | .csrrs _ csr _ => some csr
  | .csrrc _ csr _ => some csr
  | .csrrwi _ csr _ => some csr
  | .csrrsi _ csr _ => some csr
  | .csrrci _ csr _ => some csr
  | .mopRN _ _ _ => none
  | .mopRRN _ _ _ _ => none
  | .cmopN _ => none
  | .lpad _ => none

/-- The destination register of an instruction that has one (R136). -/
def destOf : Instr → Option Reg
  | .csrrw rd _ _ => some rd
  | .csrrs rd _ _ => some rd
  | .csrrc rd _ _ => some rd
  | .csrrwi rd _ _ => some rd
  | .csrrsi rd _ _ => some rd
  | .csrrci rd _ _ => some rd
  | .mopRN _ rd _ => some rd
  | .mopRRN _ rd _ _ => some rd
  | .cmopN _ => none
  | .lpad _ => none

/-- An outcome with `f` applied to its next state. -/
def mapNext (f : State → State) (o : Host.Outcome State Fault Refusal) : Host.Outcome State Fault Refusal :=
  match o with
  | .next t => .next (f t)
  | .fault e => .fault e
  | .refused r => .refused r

/-- What the source says of Zicfiss in a mode where it is not active (R26, R31, R36, R51, items (a) to (c)), in the state
`s`: every CSR instruction addressed to `ssp` raises the illegal-instruction exception, and every Zimop and Zcmop encoding,
the Zicfiss instructions among them, has its plain behaviour. -/
def zicfissFallback (s : State) : Prop :=
  (∀ (rd : Reg) (src : BitVec 5), ∀ p ∈ csrForms rd sspCsrAddr src,
    exec p.1 s = .fault (.illegalInstruction illegalInsnCode (Config.illegalTval p.2) s.pc)) ∧
  (∀ (n : BitVec 5) (rd rs1 : Reg), exec (.mopRN n rd rs1) s = zimopBehaviour rd s) ∧
  (∀ (n : BitVec 3) (rd rs1 rs2 : Reg), exec (.mopRRN n rd rs1 rs2) s = zimopBehaviour rd s) ∧
  (∀ n : BitVec 4, exec (.cmopN n) s = zcmopBehaviour s)

/-- What the source says of Zicfilp in a mode where it is not active (R210), in the state `s`: (a) no instruction that completes
changes ELP from NO_LP_EXPECTED; (b) `lpad` with any label completes and changes nothing but the pc. -/
def zicfilpFallback (s : State) : Prop :=
  (s.elp = .noLpExpected → ∀ (i : Instr) (t : State), exec i s = .next t → t.elp = .noLpExpected) ∧
  (∀ lpl : BitVec 20, s.pc.toNat + 4 < 2 ^ 64 → exec (.lpad lpl) s = .next { s with pc := s.pc + 4#64 })

/-- Zicfilp is not active in the mode of `s`: the enable that governs that mode is 0 (R210), as stored bits. -/
def zicfilpOff (s : State) : Prop :=
  (s.priv = .M ∧ s.mseccfg.getLsbD 10 = false) ∨
  (s.priv = .S ∧ s.virt = false ∧ s.menvcfg.getLsbD 59 = false) ∨
  (s.priv = .S ∧ s.virt = true ∧ s.henvcfg.getLsbD 59 = false) ∨
  (s.priv = .U ∧ s.virt = false ∧ s.mstatus.getLsbD 23 = false) ∨
  (s.priv = .U ∧ s.virt = true ∧ s.vsstatus.getLsbD 23 = false)

end Sys2Proof.Machine
end

