-- ==== Sys2Proof/Certificates/Slice0/Obligations.lean ====
section
/-! DEFINITION. The statements for the provers, in the order of OBLIGATIONS.json. A rule's own words are quoted there. Where a
clause rests on a choice of the model or on what the spec marks as its own decision, derivation or general knowledge, the
docstring says so and names the log entry. -/

open Sys2Proof
open Sys2Proof.Machine

/-! ### Encoding -/

/-- R131 to R136 (general knowledge of the spec, log 2): decoding the bytes of a well-formed instruction, whatever follows
them, gives the instruction back, with every operand at every value, and the bytes after it. -/
def Obligations.DecodeInvertsEncode : Prop :=
  ∀ (i : Instr) (rest : List Byte), i.wellFormed = true → decode (encodeBytes i ++ rest) = .ok (i, rest)

/-- R137, R139 (log 2): the decoder accepts nothing but encodings of well-formed instructions, so no bit of an accepted
instruction is dropped. -/
def Obligations.DecodeAcceptsOnlyEncodings : Prop :=
  ∀ (bytes rest : List Byte) (i : Instr), decode bytes = .ok (i, rest) →
    i.wellFormed = true ∧ bytes = encodeBytes i ++ rest

/-- R137 (log 2): no word fits two of the nine 32-bit rows, and a word decodes to nothing exactly when it fits none. -/
def Obligations.OpcodeRowsDisjointAndComplete : Prop :=
  ∀ w : IWord,
    wordRows.Pairwise (fun p q => ¬(fits w p.1 p.2 = true ∧ fits w q.1 q.2 = true)) ∧
    (decodeWord w = none ↔ ∀ p ∈ wordRows, fits w p.1 p.2 = false)

/-- A few words written out from R131 to R135 (log 2), one at least for each family, decode to the instructions they stand
for, and two that fit no row decode to none. -/
def Obligations.TableWordsDecode : Prop :=
  decodeTableWord 32 0x011313F3 = some (.csrrw 7 0x011 6) ∧
  decodeTableWord 32 0x30A2A073 = some (.csrrs 0 0x30A 5) ∧
  decodeTableWord 32 0x0113F573 = some (.csrrci 10 0x011 7) ∧
  decodeTableWord 32 0xCDF342F3 = some (.mopRN 31 5 6) ∧
  decodeTableWord 32 0xCEC5C573 = some (.mopRRN 7 10 11 12) ∧
  decodeTableWord 16 0x6581 = some (.cmopN 11) ∧
  decodeTableWord 32 0x12345017 = some (.lpad 0x12345) ∧
  decodeTableWord 32 0x00000517 = none ∧
  decodeTableWord 16 0x6001 = none

/-! ### Step -/

/-- R8, R214 (the precondition: log 16): a step begun with NO_LP_EXPECTED at bytes that decode to an instruction is that
instruction's meaning. The meaning itself advances the pc (R23); the step adds nothing else. -/
def Obligations.StepRunsDecodedInstruction : Prop :=
  ∀ (s : State) (i : Instr) (rest : List Byte),
    s.elp = .noLpExpected → decode (fetchBytes s) = .ok (i, rest) → step s = exec i s

/-- R6, R103, R130 (log 14): where the bytes of a well-formed instruction stand in memory from the pc on, in little-endian order
and modulo 2^64, a step begun with NO_LP_EXPECTED is that instruction's meaning. -/
def Obligations.StepRunsInstructionInMemory : Prop :=
  ∀ (s : State) (i : Instr), i.wellFormed = true → s.elp = .noLpExpected →
    (∀ (k : Nat) (hk : k < (encodeBytes i).length), s.mem.read (s.pc + BitVec.ofNat 64 k).toNat = some (encodeBytes i)[k]) →
    step s = exec i s

/-- R214 (the spec's decision D8; log 16): a step begun with LP_EXPECTED is refused whatever stands in memory. -/
def Obligations.StepRefusedWhileLandingPadExpected : Prop :=
  ∀ s : State, s.elp = .lpExpected → step s = .refused .elpExpected

/-- R106, R130 (the spec's decision D16; log 14): a fetch is stuck where the text lacks a byte that the length rule asks for:
one of the two of the first parcel, or one of the two of the second where the first announces 32 bits. The address after the
last is 0 (R6). -/
def Obligations.StepStuckOutsideText : Prop :=
  ∀ s : State, s.elp = .noLpExpected →
    (s.mem.read s.pc.toNat = none → step s = .fault (.fetchOutsideText s.pc)) ∧
    (∀ b0 : Byte, s.mem.read s.pc.toNat = some b0 → s.mem.read (s.pc + 1#64).toNat = none →
      step s = .fault (.fetchOutsideText s.pc)) ∧
    (∀ b0 b1 : Byte, s.mem.read s.pc.toNat = some b0 → s.mem.read (s.pc + 1#64).toNat = some b1 →
      b0.extractLsb' 0 2 = 3#2 → b0.extractLsb' 2 3 ≠ 7#3 →
      (s.mem.read (s.pc + 2#64).toNat = none ∨ s.mem.read (s.pc + 3#64).toNat = none) →
      step s = .fault (.fetchOutsideText s.pc))

/-- R130, R139 (the spec's decisions D27, D28; log 35): fetched bits that fit no row are refused: a first parcel that announces
48 bits or more, a 16-bit parcel that is no c.mop.n, a 32-bit word that fits no row. -/
def Obligations.StepRefusesOutsideAdmittedSet : Prop :=
  ∀ (s : State) (b0 b1 : Byte), s.elp = .noLpExpected →
    s.mem.read s.pc.toNat = some b0 → s.mem.read (s.pc + 1#64).toNat = some b1 →
    (b0.extractLsb' 0 5 = 31#5 → step s = .refused .notInAdmittedSet) ∧
    (b0.extractLsb' 0 2 ≠ 3#2 → fits (parcel b0 b1) cmopMask cmopMatch = false → step s = .refused .notInAdmittedSet) ∧
    (∀ b2 b3 : Byte, b0.extractLsb' 0 2 = 3#2 → b0.extractLsb' 0 5 ≠ 31#5 →
      s.mem.read (s.pc + 2#64).toNat = some b2 → s.mem.read (s.pc + 3#64).toNat = some b3 →
      (∀ p ∈ wordRows, fits (joinParcels (parcel b0 b1) (parcel b2 b3)) p.1 p.2 = false) →
      step s = .refused .notInAdmittedSet)

/-! ### The access check -/

/-- R162, R170, R28, R33, R139 (the table is the spec's default, general knowledge G11; log 1, 7, 28, 35, 39): the answer of the
access check for every CSR number in every mode. -/
def Obligations.CsrAccessTable : Prop :=
  ∀ s : State,
    (s.priv = .M → ∀ c : Csr, c ≠ .dcsr → csrAccess (csrAddr c) s = .ok c) ∧
    (s.priv = .S → s.virt = false →
      (∀ c ∈ [Csr.sstatus, .vsstatus, .henvcfg], csrAccess (csrAddr c) s = .ok c) ∧
      (∀ c ∈ [Csr.mstatus, .menvcfg, .mseccfg], csrAccess (csrAddr c) s = .illegal)) ∧
    (s.priv = .U → s.virt = false →
      ∀ c ∈ [Csr.sstatus, .vsstatus, .mstatus, .menvcfg, .henvcfg, .mseccfg], csrAccess (csrAddr c) s = .illegal) ∧
    (s.priv = .S → s.virt = true →
      csrAccess (csrAddr .sstatus) s = .ok .sstatus ∧
      (∀ c ∈ [Csr.vsstatus, .henvcfg], csrAccess (csrAddr c) s = .refuse .guestCsrAccess) ∧
      (∀ c ∈ [Csr.mstatus, .menvcfg, .mseccfg], csrAccess (csrAddr c) s = .illegal)) ∧
    (s.priv = .U → s.virt = true →
      (∀ c ∈ [Csr.sstatus, .vsstatus, .henvcfg], csrAccess (csrAddr c) s = .refuse .guestCsrAccess) ∧
      (∀ c ∈ [Csr.mstatus, .menvcfg, .mseccfg], csrAccess (csrAddr c) s = .illegal)) ∧
    (s.priv ≠ .M → csrAccess sspCsrAddr s =
      if ssActive s.priv s.virt s = some true then .ok .ssp else .illegal) ∧
    (∀ a ∈ [csrAddr .dcsr, menvcfghAddr, henvcfghAddr], csrAccess a s = .illegal) ∧
    (∀ a : CsrNum, (∀ c : Csr, a ≠ csrAddr c) → a ≠ menvcfghAddr → a ≠ henvcfghAddr →
      csrAccess a s = .refuse .csrNotInSpec)

/-- R161, R180, R234 (log 8, 9): a CSR instruction, in every one of its six forms, that fails the access check ends the step
there: with the illegal-instruction exception for its own word, at its own pc, or with the check's refusal. -/
def Obligations.CsrFormsStopByAccessCheck : Prop :=
  ∀ (s : State) (rd : Reg) (csr : CsrNum) (src : BitVec 5), ∀ p ∈ csrForms rd csr src,
    encode p.1 = parcelsOf p.2 ∧
    (csrAccess csr s = .illegal →
      exec p.1 s = .fault (.illegalInstruction illegalInsnCode (Config.illegalTval p.2) s.pc)) ∧
    (∀ r : Refusal, csrAccess csr s = .refuse r → exec p.1 s = .refused r)

/-! ### The six CSR instructions -/

/-- R171, R160, R161 (general knowledge G6): `csrrw` completes wherever the access check passes and the next pc is below 2^64;
it writes `x[rs1]` to the CSR and gives `x[rd]` the old value, which makes `rd = rs1` a swap; nothing else changes. -/
def Obligations.CsrrwCompletes : Prop :=
  ∀ (s : State) (rd rs1 : Reg) (csr : CsrNum) (c : Csr), csrAccess csr s = .ok c → s.pc.toNat + 4 < 2 ^ 64 →
    ∃ t, exec (.csrrw rd csr rs1) s = .next t ∧ csrResult s (csrWrite c (s.x rs1) s) rd (csrRead c s) t

/-- R172, R160, R161 (general knowledge G6): `csrrs`; no write access when the register number `rs1` is 0. -/
def Obligations.CsrrsCompletes : Prop :=
  ∀ (s : State) (rd rs1 : Reg) (csr : CsrNum) (c : Csr), csrAccess csr s = .ok c → s.pc.toNat + 4 < 2 ^ 64 →
    ∃ t, exec (.csrrs rd csr rs1) s = .next t ∧
      csrResult s (if rs1 = 0#5 then s else csrWrite c (csrRead c s ||| s.x rs1) s) rd (csrRead c s) t

/-- R173, R160, R161 (general knowledge G6): `csrrc`; no write access when the register number `rs1` is 0. -/
def Obligations.CsrrcCompletes : Prop :=
  ∀ (s : State) (rd rs1 : Reg) (csr : CsrNum) (c : Csr), csrAccess csr s = .ok c → s.pc.toNat + 4 < 2 ^ 64 →
    ∃ t, exec (.csrrc rd csr rs1) s = .next t ∧
      csrResult s (if rs1 = 0#5 then s else csrWrite c (csrRead c s &&& ~~~(s.x rs1)) s) rd (csrRead c s) t

/-- R174, R160, R161 (general knowledge G6): `csrrwi` writes the zero-extended immediate, whose bits above 4 are 0. -/
def Obligations.CsrrwiCompletes : Prop :=
  ∀ (s : State) (rd : Reg) (uimm : BitVec 5) (csr : CsrNum) (c : Csr), csrAccess csr s = .ok c → s.pc.toNat + 4 < 2 ^ 64 →
    ∃ t, exec (.csrrwi rd csr uimm) s = .next t ∧
      csrResult s (csrWrite c (BitVec.ofNat 64 uimm.toNat) s) rd (csrRead c s) t

/-- R175, R160, R161 (general knowledge G6): `csrrsi`; no write access when the 5-bit field is 0. -/
def Obligations.CsrrsiCompletes : Prop :=
  ∀ (s : State) (rd : Reg) (uimm : BitVec 5) (csr : CsrNum) (c : Csr), csrAccess csr s = .ok c → s.pc.toNat + 4 < 2 ^ 64 →
    ∃ t, exec (.csrrsi rd csr uimm) s = .next t ∧
      csrResult s (if uimm = 0#5 then s else csrWrite c (csrRead c s ||| BitVec.ofNat 64 uimm.toNat) s) rd (csrRead c s) t

/-- R176, R160, R161 (general knowledge G6): `csrrci`; no write access when the 5-bit field is 0. -/
def Obligations.CsrrciCompletes : Prop :=
  ∀ (s : State) (rd : Reg) (uimm : BitVec 5) (csr : CsrNum) (c : Csr), csrAccess csr s = .ok c → s.pc.toNat + 4 < 2 ^ 64 →
    ∃ t, exec (.csrrci rd csr uimm) s = .next t ∧
      csrResult s (if uimm = 0#5 then s else csrWrite c (csrRead c s &&& ~~~(BitVec.ofNat 64 uimm.toNat)) s) rd
        (csrRead c s) t

/-! ### What each CSR returns and stores -/

/-- R164. The old value given to `legalize_other` is the value as read (DESIGN CHOICE, log 5), and that a write is in effect
from the next instruction on is the spec's decision D17 (log 20). The bits a read shows; the bits a write stores; the draws
when the gate opens (the drawn bits are whatever bits: d1, d2, d3 are not fixed here); clearing bit 60 makes Zicfiss inactive
in S, U, VS and VU; and nothing else changes. -/
def Obligations.MenvcfgReadAndWrite : Prop :=
  ∀ (v : Word) (s : State),
    (csrRead .menvcfg s).getLsbD 60 = s.menvcfg.getLsbD 60 ∧ (csrRead .menvcfg s).getLsbD 59 = s.menvcfg.getLsbD 59 ∧
    (∀ i : Nat, (1 ≤ i ∧ i ≤ 3) ∨ (8 ≤ i ∧ i ≤ 58) → (csrRead .menvcfg s).getLsbD i = false) ∧
    (∀ i ∈ [0, 4, 5, 6, 7, 61, 62, 63], (csrRead .menvcfg s).getLsbD i = s.menvcfg.getLsbD i) ∧
    (csrWrite .menvcfg v s).menvcfg.getLsbD 60 = v.getLsbD 60 ∧ (csrWrite .menvcfg v s).menvcfg.getLsbD 59 = v.getLsbD 59 ∧
    (∀ i ∈ [0, 4, 5, 6, 7, 61, 62, 63], (csrWrite .menvcfg v s).menvcfg.getLsbD i =
      (Config.legalizeOther .menvcfg (csrRead .menvcfg s) v).getLsbD i) ∧
    (∀ i : Nat, (1 ≤ i ∧ i ≤ 3) ∨ (8 ≤ i ∧ i ≤ 58) → (csrWrite .menvcfg v s).menvcfg.getLsbD i = s.menvcfg.getLsbD i) ∧
    (s.menvcfg.getLsbD 60 = false ∧ v.getLsbD 60 = true →
      ∃ d1 d2 d3 : Bool,
        (∀ i : Nat, (csrWrite .menvcfg v s).henvcfg.getLsbD i = if i = 60 then d1 else s.henvcfg.getLsbD i) ∧
        (∀ i : Nat, (csrWrite .menvcfg v s).mstatus.getLsbD i = if i = 24 then d2 else s.mstatus.getLsbD i) ∧
        (∀ i : Nat, (csrWrite .menvcfg v s).vsstatus.getLsbD i =
          if i = 24 ∧ d1 = true then d3 else s.vsstatus.getLsbD i)) ∧
    (¬(s.menvcfg.getLsbD 60 = false ∧ v.getLsbD 60 = true) →
      (csrWrite .menvcfg v s).henvcfg = s.henvcfg ∧ (csrWrite .menvcfg v s).mstatus = s.mstatus ∧
      (csrWrite .menvcfg v s).vsstatus = s.vsstatus) ∧
    (v.getLsbD 60 = false → ∀ (p : Priv) (virt : Bool), p ≠ .M → ssActive p virt (csrWrite .menvcfg v s) = some false) ∧
    sameHart s (csrWrite .menvcfg v s) ∧ (csrWrite .menvcfg v s).elp = s.elp ∧ (csrWrite .menvcfg v s).ssp = s.ssp ∧
    (csrWrite .menvcfg v s).mseccfg = s.mseccfg ∧ (csrWrite .menvcfg v s).sspmp = s.sspmp ∧
    (csrWrite .menvcfg v s).dcsr = s.dcsr

/-- R165. That the gate holds for M-mode's accesses too is the spec's decision D4 (U9; log 19), and the old value given to
`legalize_other` is the value as read (DESIGN CHOICE, log 5). Bit 60 reads gated and stores only while `menvcfg.SBCFIE` is 1;
when the gate of `vsstatus.UBCFIE` opens, that bit takes some bit d1; nothing else changes. -/
def Obligations.HenvcfgReadAndWrite : Prop :=
  ∀ (v : Word) (s : State),
    (csrRead .henvcfg s).getLsbD 60 = (s.menvcfg.getLsbD 60 && s.henvcfg.getLsbD 60) ∧
    (csrRead .henvcfg s).getLsbD 59 = s.henvcfg.getLsbD 59 ∧
    (∀ i : Nat, (1 ≤ i ∧ i ≤ 3) ∨ (8 ≤ i ∧ i ≤ 58) → (csrRead .henvcfg s).getLsbD i = false) ∧
    (∀ i ∈ [0, 4, 5, 6, 7, 61, 62, 63], (csrRead .henvcfg s).getLsbD i = s.henvcfg.getLsbD i) ∧
    (csrWrite .henvcfg v s).henvcfg.getLsbD 60 =
      (if s.menvcfg.getLsbD 60 then v.getLsbD 60 else s.henvcfg.getLsbD 60) ∧
    (csrWrite .henvcfg v s).henvcfg.getLsbD 59 = v.getLsbD 59 ∧
    (∀ i ∈ [0, 4, 5, 6, 7, 61, 62, 63], (csrWrite .henvcfg v s).henvcfg.getLsbD i =
      (Config.legalizeOther .henvcfg (csrRead .henvcfg s) v).getLsbD i) ∧
    (∀ i : Nat, (1 ≤ i ∧ i ≤ 3) ∨ (8 ≤ i ∧ i ≤ 58) → (csrWrite .henvcfg v s).henvcfg.getLsbD i = s.henvcfg.getLsbD i) ∧
    ((csrRead .henvcfg s).getLsbD 60 = false ∧ (csrRead .henvcfg (csrWrite .henvcfg v s)).getLsbD 60 = true →
      ∃ d1 : Bool, ∀ i : Nat,
        (csrWrite .henvcfg v s).vsstatus.getLsbD i = if i = 24 then d1 else s.vsstatus.getLsbD i) ∧
    (¬((csrRead .henvcfg s).getLsbD 60 = false ∧ (csrRead .henvcfg (csrWrite .henvcfg v s)).getLsbD 60 = true) →
      (csrWrite .henvcfg v s).vsstatus = s.vsstatus) ∧
    sameHart s (csrWrite .henvcfg v s) ∧ (csrWrite .henvcfg v s).elp = s.elp ∧ (csrWrite .henvcfg v s).ssp = s.ssp ∧
    (csrWrite .henvcfg v s).menvcfg = s.menvcfg ∧ (csrWrite .henvcfg v s).mstatus = s.mstatus ∧
    (csrWrite .henvcfg v s).mseccfg = s.mseccfg ∧ (csrWrite .henvcfg v s).sspmp = s.sspmp ∧
    (csrWrite .henvcfg v s).dcsr = s.dcsr

/-- R166. That software may write SPELP and MPELP is the spec's derivation; that the gate holds for M-mode, the only mode that
reaches `mstatus`, is its decision D4 (U9; log 19); the old value given to `legalize_other` is the value as read (DESIGN
CHOICE, log 5). Bit 24 reads gated and stores only while `menvcfg.SBCFIE` is 1; a write of the previous-ELP holders does not
change ELP; nothing else changes. -/
def Obligations.MstatusReadAndWrite : Prop :=
  ∀ (v : Word) (s : State),
    (csrRead .mstatus s).getLsbD 24 = (s.menvcfg.getLsbD 60 && s.mstatus.getLsbD 24) ∧
    (∀ i ∈ [23, 25, 26], (csrRead .mstatus s).getLsbD i = s.mstatus.getLsbD i) ∧
    (∀ i : Nat, i = 0 ∨ i = 2 ∨ i = 4 ∨ (27 ≤ i ∧ i ≤ 31) ∨ (38 ≤ i ∧ i ≤ 62) → (csrRead .mstatus s).getLsbD i = false) ∧
    (∀ i : Nat, i = 1 ∨ i = 3 ∨ (5 ≤ i ∧ i ≤ 22) ∨ (32 ≤ i ∧ i ≤ 37) ∨ i = 63 →
      (csrRead .mstatus s).getLsbD i = s.mstatus.getLsbD i ∧
      (csrWrite .mstatus v s).mstatus.getLsbD i = (Config.legalizeOther .mstatus (csrRead .mstatus s) v).getLsbD i) ∧
    (∀ i ∈ [23, 25, 26], (csrWrite .mstatus v s).mstatus.getLsbD i = v.getLsbD i) ∧
    (csrWrite .mstatus v s).mstatus.getLsbD 24 =
      (if s.menvcfg.getLsbD 60 then v.getLsbD 24 else s.mstatus.getLsbD 24) ∧
    (∀ i : Nat, i = 0 ∨ i = 2 ∨ i = 4 ∨ (27 ≤ i ∧ i ≤ 31) ∨ (38 ≤ i ∧ i ≤ 62) →
      (csrWrite .mstatus v s).mstatus.getLsbD i = s.mstatus.getLsbD i) ∧
    sameHart s (csrWrite .mstatus v s) ∧ (csrWrite .mstatus v s).elp = s.elp ∧ (csrWrite .mstatus v s).ssp = s.ssp ∧
    (csrWrite .mstatus v s).menvcfg = s.menvcfg ∧ (csrWrite .mstatus v s).henvcfg = s.henvcfg ∧
    (csrWrite .mstatus v s).vsstatus = s.vsstatus ∧ (csrWrite .mstatus v s).mseccfg = s.mseccfg ∧
    (csrWrite .mstatus v s).sspmp = s.sspmp ∧ (csrWrite .mstatus v s).dcsr = s.dcsr

/-- R167. That the drawn-only fields of `sstatus` are a view of T is general knowledge (G24: PRESUMED, log 36), and the old
value given to `legalize_other` is the value as read (DESIGN CHOICE, log 5). With T = `mstatus` if V=0 and `vsstatus` if V=1:
what a read of `sstatus` shows of T and what a write stores in T; every other bit of T, and every other register, is
unchanged. -/
def Obligations.SstatusReadAndWrite : Prop :=
  ∀ (v : Word) (s : State) (T : State → Word) (gate : Bool),
    (s.virt = false → T = State.mstatus ∧ gate = s.menvcfg.getLsbD 60) →
    (s.virt = true → T = State.vsstatus ∧ gate = (s.menvcfg.getLsbD 60 && s.henvcfg.getLsbD 60)) →
    (csrRead .sstatus s).getLsbD 23 = (T s).getLsbD 23 ∧ (csrRead .sstatus s).getLsbD 25 = (T s).getLsbD 25 ∧
    (csrRead .sstatus s).getLsbD 24 = (gate && (T s).getLsbD 24) ∧
    (∀ i : Nat, i = 0 ∨ (2 ≤ i ∧ i ≤ 4) ∨ i = 7 ∨ (11 ≤ i ∧ i ≤ 12) ∨ i = 17 ∨ (20 ≤ i ∧ i ≤ 22) ∨ (26 ≤ i ∧ i ≤ 31) ∨
        (34 ≤ i ∧ i ≤ 62) →
      (csrRead .sstatus s).getLsbD i = false ∧ (T (csrWrite .sstatus v s)).getLsbD i = (T s).getLsbD i) ∧
    (∀ i : Nat, i = 1 ∨ i = 5 ∨ i = 6 ∨ (8 ≤ i ∧ i ≤ 10) ∨ (13 ≤ i ∧ i ≤ 16) ∨ i = 18 ∨ i = 19 ∨ i = 32 ∨ i = 33 ∨ i = 63 →
      (csrRead .sstatus s).getLsbD i = (T s).getLsbD i ∧
      (T (csrWrite .sstatus v s)).getLsbD i = (Config.legalizeOther .sstatus (csrRead .sstatus s) v).getLsbD i) ∧
    (T (csrWrite .sstatus v s)).getLsbD 23 = v.getLsbD 23 ∧ (T (csrWrite .sstatus v s)).getLsbD 25 = v.getLsbD 25 ∧
    (T (csrWrite .sstatus v s)).getLsbD 24 = (if gate then v.getLsbD 24 else (T s).getLsbD 24) ∧
    (s.virt = false → (csrWrite .sstatus v s).vsstatus = s.vsstatus) ∧
    (s.virt = true → (csrWrite .sstatus v s).mstatus = s.mstatus) ∧
    sameHart s (csrWrite .sstatus v s) ∧ (csrWrite .sstatus v s).elp = s.elp ∧ (csrWrite .sstatus v s).ssp = s.ssp ∧
    (csrWrite .sstatus v s).menvcfg = s.menvcfg ∧ (csrWrite .sstatus v s).henvcfg = s.henvcfg ∧
    (csrWrite .sstatus v s).mseccfg = s.mseccfg ∧ (csrWrite .sstatus v s).sspmp = s.sspmp ∧
    (csrWrite .sstatus v s).dcsr = s.dcsr

/-- R168. That the gate holds for M-mode's accesses too is the spec's decision D4 (U9; log 19), and the old value given to
`legalize_other` is the value as read (DESIGN CHOICE, log 5). Bit 24 reads two gates deep and stores only while
`henvcfg.SBCFIE` reads 1; nothing else changes. -/
def Obligations.VsstatusReadAndWrite : Prop :=
  ∀ (v : Word) (s : State),
    (csrRead .vsstatus s).getLsbD 24 = (s.menvcfg.getLsbD 60 && s.henvcfg.getLsbD 60 && s.vsstatus.getLsbD 24) ∧
    (∀ i ∈ [23, 25], (csrRead .vsstatus s).getLsbD i = s.vsstatus.getLsbD i ∧
      (csrWrite .vsstatus v s).vsstatus.getLsbD i = v.getLsbD i) ∧
    (∀ i : Nat, i = 0 ∨ (2 ≤ i ∧ i ≤ 4) ∨ i = 7 ∨ (11 ≤ i ∧ i ≤ 12) ∨ i = 17 ∨ (20 ≤ i ∧ i ≤ 22) ∨ (26 ≤ i ∧ i ≤ 31) ∨
        (34 ≤ i ∧ i ≤ 62) →
      (csrRead .vsstatus s).getLsbD i = false ∧ (csrWrite .vsstatus v s).vsstatus.getLsbD i = s.vsstatus.getLsbD i) ∧
    (∀ i : Nat, i = 1 ∨ i = 5 ∨ i = 6 ∨ (8 ≤ i ∧ i ≤ 10) ∨ (13 ≤ i ∧ i ≤ 16) ∨ i = 18 ∨ i = 19 ∨ i = 32 ∨ i = 33 ∨ i = 63 →
      (csrRead .vsstatus s).getLsbD i = s.vsstatus.getLsbD i ∧
      (csrWrite .vsstatus v s).vsstatus.getLsbD i = (Config.legalizeOther .vsstatus (csrRead .vsstatus s) v).getLsbD i) ∧
    (csrWrite .vsstatus v s).vsstatus.getLsbD 24 =
      (if s.menvcfg.getLsbD 60 && s.henvcfg.getLsbD 60 then v.getLsbD 24 else s.vsstatus.getLsbD 24) ∧
    sameHart s (csrWrite .vsstatus v s) ∧ (csrWrite .vsstatus v s).elp = s.elp ∧ (csrWrite .vsstatus v s).ssp = s.ssp ∧
    (csrWrite .vsstatus v s).menvcfg = s.menvcfg ∧ (csrWrite .vsstatus v s).henvcfg = s.henvcfg ∧
    (csrWrite .vsstatus v s).mstatus = s.mstatus ∧ (csrWrite .vsstatus v s).mseccfg = s.mseccfg ∧
    (csrWrite .vsstatus v s).sspmp = s.sspmp ∧ (csrWrite .vsstatus v s).dcsr = s.dcsr

/-- R169, R178 (the effect on ELP is the spec's decision D23, log 31; the legal values are parameters, log 6; the old value
given to `legalize_other` is the value as read, DESIGN CHOICE, log 5): a legal written SSPMP is stored, an illegal one becomes
a legal value that depends only on the old and the written one; a write in M-mode that leaves MFCFIE = 0 clears ELP; nothing
else changes. -/
def Obligations.MseccfgReadAndWrite : Prop :=
  ∀ (v : Word) (s : State),
    (∀ i : Nat, i ≤ 2 ∨ i = 8 ∨ i = 9 →
      (csrRead .mseccfg s).getLsbD i = s.mseccfg.getLsbD i ∧
      (csrWrite .mseccfg v s).mseccfg.getLsbD i = (Config.legalizeOther .mseccfg (csrRead .mseccfg s) v).getLsbD i) ∧
    (∀ i : Nat, (3 ≤ i ∧ i ≤ 7) ∨ (17 ≤ i ∧ i ≤ 63) →
      (csrRead .mseccfg s).getLsbD i = false ∧ (csrWrite .mseccfg v s).mseccfg.getLsbD i = s.mseccfg.getLsbD i) ∧
    (csrRead .mseccfg s).getLsbD 10 = s.mseccfg.getLsbD 10 ∧
    (csrRead .mseccfg s).extractLsb' 11 6 = s.sspmp ∧
    (csrWrite .mseccfg v s).mseccfg.getLsbD 10 = v.getLsbD 10 ∧
    (csrWrite .mseccfg v s).sspmp =
      (if Config.sspmpLegal (v.extractLsb' 11 6) then v.extractLsb' 11 6
       else Config.sspmpLegalize s.sspmp (v.extractLsb' 11 6)) ∧
    Config.sspmpLegal (csrWrite .mseccfg v s).sspmp = true ∧
    (csrWrite .mseccfg v s).elp = (if s.priv = .M ∧ v.getLsbD 10 = false then .noLpExpected else s.elp) ∧
    sameHart s (csrWrite .mseccfg v s) ∧ (csrWrite .mseccfg v s).ssp = s.ssp ∧
    (csrWrite .mseccfg v s).menvcfg = s.menvcfg ∧ (csrWrite .mseccfg v s).henvcfg = s.henvcfg ∧
    (csrWrite .mseccfg v s).mstatus = s.mstatus ∧ (csrWrite .mseccfg v s).vsstatus = s.vsstatus ∧
    (csrWrite .mseccfg v s).dcsr = s.dcsr

/-- R54, R56 (that no written bit is changed is the spec's decision D22, log 25): the CSR `ssp` is unprivileged, reads and
writes the whole 64-bit register, which is one register for all modes, and writing it changes nothing else. -/
def Obligations.SspCsrIsWholeRegister : Prop :=
  ∀ (s : State) (rd rs1 : Reg), csrAccess sspCsrAddr s = .ok .ssp → s.pc.toNat + 4 < 2 ^ 64 →
    (∃ t, exec (.csrrs rd sspCsrAddr 0#5) s = .next t ∧ (rd ≠ 0#5 → t.x rd = s.ssp) ∧ sameRegsBut rd s t ∧
      sameButRegsPc s t) ∧
    (∃ t, exec (.csrrw 0#5 sspCsrAddr rs1) s = .next t ∧ t.ssp = s.x rs1 ∧ sameRegs s t ∧ sameMode s t ∧
      t.elp = s.elp ∧ sameStoredCsrs s t ∧ sameMemory s t) ∧
    (∀ (p : Priv) (v : Bool), csrPrivOk .ssp p v = .ok)

/-- R170 (the pass in M-mode is the spec's decision D7, log 39; that a write stores all 64 bits is its decision D22, DESIGN
CHOICE, log 25): an access to `ssp` passes in M-mode whatever the enables; in a mode less than M each of the six CSR
instructions addressed to it raises the illegal-instruction exception where Zicfiss is not active and passes where it is; the
four conditions under which it raises; the access is to the whole register; and no mode fails the privilege check. -/
def Obligations.SspAccessRule : Prop :=
  ∀ s : State,
    (s.priv = .M → csrAccess sspCsrAddr s = .ok .ssp) ∧
    (s.priv ≠ .M → ssActive s.priv s.virt s = some false →
      ∀ (rd : Reg) (src : BitVec 5), ∀ p ∈ csrForms rd sspCsrAddr src,
        exec p.1 s = .fault (.illegalInstruction illegalInsnCode (Config.illegalTval p.2) s.pc)) ∧
    (s.priv ≠ .M → ssActive s.priv s.virt s = some true → csrAccess sspCsrAddr s = .ok .ssp) ∧
    (s.priv ≠ .M → (ssActive s.priv s.virt s = some false ↔
      (csrRead .menvcfg s).getLsbD 60 = false ∨
      (s.virt = true ∧ (csrRead .henvcfg s).getLsbD 60 = false) ∨
      (s.priv = .U ∧ s.virt = false ∧ (csrRead .mstatus s).getLsbD 24 = false) ∨
      (s.priv = .U ∧ s.virt = true ∧ (csrRead .vsstatus s).getLsbD 24 = false))) ∧
    csrRead .ssp s = s.ssp ∧ (∀ v : Word, csrWrite .ssp v s = { s with ssp := v }) ∧
    (∀ (p : Priv) (v : Bool), csrPrivOk .ssp p v = .ok)

/-! ### The enables -/

/-- R26, items (a) to (e). Its list is scoped to modes less than M; that the gated fields are read-only zero for M-mode's
accesses too is the spec's decision D4 (conflict C3, U9; log 19). `menvcfg.SBCFIE` = 1 makes Zicfiss active in S-mode; = 0
makes it inactive there, makes the fall-back rules apply in every mode less than M, reserves `xwr=010b` in S-stage tables, and
makes `henvcfg.SBCFIE`, `mstatus.UBCFIE` and `vsstatus.UBCFIE` (`sstatus.UBCFIE` for either V) read-only zero. The field
itself is read and written only through `menvcfg`. -/
def Obligations.MenvcfgSbcfieRules : Prop :=
  ∀ s : State,
    (s.menvcfg.getLsbD 60 = true → ssActive .S false s = some true) ∧
    (s.menvcfg.getLsbD 60 = false →
      ssActive .S false s = some false ∧
      (s.priv ≠ .M → zicfissFallback s) ∧
      pteXwrReserved .sStage 2#3 s = true ∧
      (csrRead .henvcfg s).getLsbD 60 = false ∧ (csrRead .sstatus s).getLsbD 24 = false ∧
      (csrRead .mstatus s).getLsbD 24 = false ∧ (csrRead .vsstatus s).getLsbD 24 = false ∧
      (∀ v : Word,
        (csrWrite .henvcfg v s).henvcfg.getLsbD 60 = s.henvcfg.getLsbD 60 ∧
        (csrWrite .mstatus v s).mstatus.getLsbD 24 = s.mstatus.getLsbD 24 ∧
        (csrWrite .vsstatus v s).vsstatus.getLsbD 24 = s.vsstatus.getLsbD 24 ∧
        (csrWrite .sstatus v s).mstatus.getLsbD 24 = s.mstatus.getLsbD 24 ∧
        (csrWrite .sstatus v s).vsstatus.getLsbD 24 = s.vsstatus.getLsbD 24)) ∧
    (∀ (c : Csr) (v : Word), c ≠ .menvcfg → (csrWrite c v s).menvcfg = s.menvcfg) ∧
    (csrRead .menvcfg s).getLsbD 60 = s.menvcfg.getLsbD 60 ∧
    (∀ v : Word, (csrWrite .menvcfg v s).menvcfg.getLsbD 60 = v.getLsbD 60)

/-- R31. Its list is scoped to V=1; that the gated field of `henvcfg` and of `vsstatus` reads 0 for M-mode and HS-mode too is
the spec's decision D4 (U9; log 19). The same for `henvcfg.SBCFIE`, whose value is `menvcfg.SBCFIE & stored(henvcfg.SBCFIE)`,
in VS-mode and VU-mode (V=1); the exception stays the illegal-instruction exception there. -/
def Obligations.HenvcfgSbcfieRules : Prop :=
  ∀ s : State,
    (csrRead .henvcfg s).getLsbD 60 = (s.menvcfg.getLsbD 60 && s.henvcfg.getLsbD 60) ∧
    ((csrRead .henvcfg s).getLsbD 60 = true → ssActive .S true s = some true) ∧
    ((csrRead .henvcfg s).getLsbD 60 = false →
      ssActive .S true s = some false ∧
      (s.priv ≠ .M → s.virt = true → zicfissFallback s) ∧
      pteXwrReserved .vsStage 2#3 s = true ∧
      (csrRead .vsstatus s).getLsbD 24 = false ∧
      (s.virt = true → (csrRead .sstatus s).getLsbD 24 = false) ∧
      (∀ v : Word,
        (csrWrite .vsstatus v s).vsstatus.getLsbD 24 = s.vsstatus.getLsbD 24 ∧
        (s.virt = true → (csrWrite .sstatus v s).vsstatus.getLsbD 24 = s.vsstatus.getLsbD 24)))

/-- R36 (that "U-mode" is U-mode with V=0, and that the field is read-only zero for M-mode too, are the spec's decisions D6
and D4; log 19, 27): `mstatus.UBCFIE` governs Zicfiss in U-mode, and while `menvcfg.SBCFIE` is 0 it reads 0 and no write
changes what it stores. -/
def Obligations.MstatusUbcfieRules : Prop :=
  ∀ s : State,
    ((csrRead .mstatus s).getLsbD 24 = true → ssActive .U false s = some true) ∧
    ((csrRead .mstatus s).getLsbD 24 = false →
      ssActive .U false s = some false ∧ (s.priv = .U → s.virt = false → zicfissFallback s)) ∧
    (s.virt = false → (csrRead .sstatus s).getLsbD 24 = (csrRead .mstatus s).getLsbD 24) ∧
    (s.menvcfg.getLsbD 60 = false →
      (csrRead .mstatus s).getLsbD 24 = false ∧
      ∀ v : Word, (csrWrite .mstatus v s).mstatus.getLsbD 24 = s.mstatus.getLsbD 24)

/-- R51. That Zicfiss is inactive in VU-mode at 0 is the spec's own reading (conflict C6), the three modes that reach the
field are the default access table (G11: PRESUMED, log 7), and that the read-only zero holds for M-mode too is the decision D4
(U9; log 19): `vsstatus.UBCFIE` governs Zicfiss in VU-mode, is read-only zero while `henvcfg.SBCFIE` reads 0 (so also while
`menvcfg.SBCFIE` is 0), and is reached through `vsstatus` from M-mode and HS-mode and through `sstatus` from VS-mode. -/
def Obligations.VsstatusUbcfieRules : Prop :=
  ∀ s : State,
    ((csrRead .vsstatus s).getLsbD 24 = true → ssActive .U true s = some true) ∧
    ((csrRead .vsstatus s).getLsbD 24 = false →
      ssActive .U true s = some false ∧ (s.priv = .U → s.virt = true → zicfissFallback s)) ∧
    ((csrRead .henvcfg s).getLsbD 60 = false →
      (csrRead .vsstatus s).getLsbD 24 = false ∧
      ∀ v : Word, (csrWrite .vsstatus v s).vsstatus.getLsbD 24 = s.vsstatus.getLsbD 24) ∧
    (s.menvcfg.getLsbD 60 = false → (csrRead .henvcfg s).getLsbD 60 = false) ∧
    csrPrivOk .vsstatus .M false = .ok ∧ csrPrivOk .vsstatus .S false = .ok ∧ csrPrivOk .sstatus .S true = .ok ∧
    (s.virt = true → (csrRead .sstatus s).getLsbD 24 = (csrRead .vsstatus s).getLsbD 24 ∧
      ∀ v : Word, (csrWrite .sstatus v s).vsstatus.getLsbD 24 = (csrWrite .vsstatus v s).vsstatus.getLsbD 24)

/-- R210, whole: in each of the five modes, where the enable that governs the mode is 0, (a) no instruction changes ELP, which
is NO_LP_EXPECTED, and (b) `lpad`, with any label, completes and changes nothing but the pc. -/
def Obligations.ZicfilpInactiveRules : Prop :=
  ∀ s : State, zicfilpOff s →
    lpActive s.priv s.virt s = false ∧
    (s.elp = .noLpExpected → ∀ (i : Instr) (t : State), exec i s = .next t → t.elp = .noLpExpected) ∧
    (∀ lpl : BitVec 20, s.pc.toNat + 4 < 2 ^ 64 → exec (.lpad lpl) s = .next { s with pc := s.pc + 4#64 })

/-- R32, R52, R59. That each enable governs its mode alone is the spec's decision D26 (log 27), that a write always stores it
is D9 (log 26), and the clause on `vsstatus` rests on the spec's correction of the source (conflict C1): `henvcfg.SFCFIE`,
`vsstatus.UFCFIE` and `mseccfg.MFCFIE` govern Zicfilp in VS-mode, VU-mode and M-mode, each by itself and by nothing else; a
write of the CSR always stores the field. In M-mode there is no enable for Zicfiss. -/
def Obligations.ZicfilpEnableRules : Prop :=
  ∀ (s : State) (v : Word),
    lpActive .S true s = (csrRead .henvcfg s).getLsbD 59 ∧
    lpActive .U true s = (csrRead .vsstatus s).getLsbD 23 ∧
    lpActive .M false s = (csrRead .mseccfg s).getLsbD 10 ∧
    ((csrRead .henvcfg s).getLsbD 59 = false → s.priv = .S → s.virt = true → zicfilpFallback s) ∧
    ((csrRead .vsstatus s).getLsbD 23 = false → s.priv = .U → s.virt = true → zicfilpFallback s) ∧
    ((csrRead .mseccfg s).getLsbD 10 = false → s.priv = .M → zicfilpFallback s) ∧
    (csrRead .henvcfg (csrWrite .henvcfg v s)).getLsbD 59 = v.getLsbD 59 ∧
    (csrRead .vsstatus (csrWrite .vsstatus v s)).getLsbD 23 = v.getLsbD 23 ∧
    (csrRead .mseccfg (csrWrite .mseccfg v s)).getLsbD 10 = v.getLsbD 10 ∧
    ssActive .M false s = none

/-- R213 (the spec's decision D8; log 17): `lpad` where Zicfilp is active is refused. -/
def Obligations.LpadRefusedWhereActive : Prop :=
  ∀ (s : State) (lpl : BitVec 20), lpActive s.priv s.virt s = true → exec (.lpad lpl) s = .refused .lpadActiveBehaviour

/-- R39: each previous-ELP field is one bit, 0 for NO_LP_EXPECTED and 1 for LP_EXPECTED, and both encodings are legal. That a
CSR write reaches both rests on the spec's decision D9 (log 26) and, for `dcsr`, on D19 (a write that no instruction makes;
log 22). -/
def Obligations.PreviousElpEncoding : Prop :=
  (∀ s : State,
    mstatusMPELP s = (if s.mstatus.getLsbD 26 then .lpExpected else .noLpExpected) ∧
    mstatusSPELP s = (if s.mstatus.getLsbD 25 then .lpExpected else .noLpExpected) ∧
    vsstatusSPELP s = (if s.vsstatus.getLsbD 25 then .lpExpected else .noLpExpected) ∧
    dcsrPelp s = (if s.dcsr.getLsbD 18 then .lpExpected else .noLpExpected)) ∧
  (∀ (e : Elp) (s : State), ∃ v : Word, mstatusMPELP (csrWrite .mstatus v s) = e ∧ mstatusSPELP (csrWrite .mstatus v s) = e) ∧
  (∀ (e : Elp) (s : State), ∃ v : Word, vsstatusSPELP (csrWrite .vsstatus v s) = e) ∧
  (∀ (e : Elp) (s : State), ∃ v : Word, dcsrPelp (csrWrite .dcsr v s) = e)

/-- R46; its last clause, that VU-mode may not access `sstatus`, is the default access table (D12, G11: PRESUMED, log 7).
UFCFIE, UBCFIE and SPELP of `sstatus` are those of `mstatus` if V=0 and those of `vsstatus` if V=1, for reads and for writes,
read-only-zero conditions included; VU-mode may not access `sstatus`. -/
def Obligations.SstatusIsWindow : Prop :=
  ∀ (s : State) (v : Word), ∀ f ∈ [23, 24, 25],
    (s.virt = false →
      (csrRead .sstatus s).getLsbD f = (csrRead .mstatus s).getLsbD f ∧
      (csrRead .mstatus (csrWrite .sstatus v s)).getLsbD f = (csrRead .mstatus (csrWrite .mstatus v s)).getLsbD f ∧
      (csrWrite .sstatus v s).mstatus.getLsbD f = (csrWrite .mstatus v s).mstatus.getLsbD f) ∧
    (s.virt = true →
      (csrRead .sstatus s).getLsbD f = (csrRead .vsstatus s).getLsbD f ∧
      (csrRead .vsstatus (csrWrite .sstatus v s)).getLsbD f = (csrRead .vsstatus (csrWrite .vsstatus v s)).getLsbD f ∧
      (csrWrite .sstatus v s).vsstatus.getLsbD f = (csrWrite .vsstatus v s).vsstatus.getLsbD f) ∧
    csrPrivOk .sstatus .U true ≠ .ok

/-- R65, R66 (the spec's derivations; M-mode of R65 is the spec's decision D7): both activity predicates as functions of the
stored bits, in all five modes. -/
def Obligations.ActivityPredicates : Prop :=
  ∀ s : State,
    ssActive .S false s = some (s.menvcfg.getLsbD 60) ∧
    ssActive .U false s = some (s.menvcfg.getLsbD 60 && s.mstatus.getLsbD 24) ∧
    ssActive .S true s = some (s.menvcfg.getLsbD 60 && s.henvcfg.getLsbD 60) ∧
    ssActive .U true s = some (s.menvcfg.getLsbD 60 && s.henvcfg.getLsbD 60 && s.vsstatus.getLsbD 24) ∧
    ssActive .M false s = none ∧
    lpActive .M false s = s.mseccfg.getLsbD 10 ∧ lpActive .S false s = s.menvcfg.getLsbD 59 ∧
    lpActive .U false s = s.mstatus.getLsbD 23 ∧ lpActive .S true s = s.henvcfg.getLsbD 59 ∧
    lpActive .U true s = s.vsstatus.getLsbD 23

/-- R102 (which tables the two stages are is the spec's derivation; log 30): `xwr=010b`, and no other value of xwr, is reserved
in S-stage tables while `menvcfg.SBCFIE` = 0 and in VS-stage tables while `henvcfg.SBCFIE` reads 0. -/
def Obligations.PteXwrReservation : Prop :=
  ∀ (s : State) (xwr : BitVec 3),
    (pteXwrReserved .sStage xwr s = true ↔ xwr = 0b010#3 ∧ (csrRead .menvcfg s).getLsbD 60 = false) ∧
    (pteXwrReserved .vsStage xwr s = true ↔ xwr = 0b010#3 ∧ (csrRead .henvcfg s).getLsbD 60 = false)

/-! ### MOP and Zicfiss words -/

/-- R190, R194 (a derivation and the decisions D7, D8 of the spec; which words are Zicfiss instructions is a parameter, log 3):
the dispatch of each of the three MOP rows. -/
def Obligations.MopDispatch : Prop :=
  ∀ (s : State) (n : BitVec 5) (m : BitVec 3) (k : BitVec 4) (rd rs1 rs2 : Reg),
    exec (.mopRN n rd rs1) s =
      (if inZicfiss32 (mopRWord n rs1 rd) = false then zimopBehaviour rd s
       else if s.priv = .M then .refused .zicfissInMMode
       else if ssActive s.priv s.virt s = some true then .refused .zicfissActiveBehaviour
       else zimopBehaviour rd s) ∧
    exec (.mopRRN m rd rs1 rs2) s =
      (if inZicfiss32 (mopRRWord m rs2 rs1 rd) = false then zimopBehaviour rd s
       else if s.priv = .M then .refused .zicfissInMMode
       else if ssActive s.priv s.virt s = some true then .refused .zicfissActiveBehaviour
       else zimopBehaviour rd s) ∧
    exec (.cmopN k) s =
      (if inZicfiss16 (cmopHalf k) = false then zcmopBehaviour s
       else if s.priv = .M then .refused .zicfissInMMode
       else if ssActive s.priv s.virt s = some true then .refused .zicfissActiveBehaviour
       else zcmopBehaviour s)

/-- R191, R192, whole: in a mode less than M in which Zicfiss is not active, every word of the Zimop and Zcmop encodings, and so
every Zicfiss instruction whichever they are, does exactly what its encoding does there: no use of `ssp`, no memory
access, no exception. -/
def Obligations.ZicfissWordsRevert : Prop :=
  ∀ (s : State) (n : BitVec 5) (m : BitVec 3) (k : BitVec 4) (rd rs1 rs2 : Reg),
    s.priv ≠ .M → ssActive s.priv s.virt s = some false →
    exec (.mopRN n rd rs1) s = zimopBehaviour rd s ∧ exec (.mopRRN m rd rs1 rs2) s = zimopBehaviour rd s ∧
    exec (.cmopN k) s = zcmopBehaviour s ∧
    (∀ i ∈ [Instr.mopRN n rd rs1, .mopRRN m rd rs1 rs2, .cmopN k],
      (∀ e : Fault, exec i s ≠ .fault e) ∧
      (∀ t : State, exec i s = .next t → t.ssp = s.ssp ∧ sameMemory s t) ∧
      (∀ v : Word, exec i { s with ssp := v } = mapNext (fun t => { t with ssp := v }) (exec i s)))

/-- R191, R192 with R193, R196 (the plain behaviours are general knowledge G8, G9; log 29): in a mode less than M where
Zicfiss is not active, every word of the three MOP rows completes, Zicfiss instruction or not: `x[rd] <- 0` (`x[0]` stays 0)
and pc+4 for the 32-bit ones, pc+2 alone for the 16-bit ones; every other register, CSR and byte of memory is unchanged. -/
def Obligations.MopFallbackCompletes : Prop :=
  ∀ (s : State) (n : BitVec 5) (m : BitVec 3) (k : BitVec 4) (rd rs1 rs2 : Reg),
    ssActive s.priv s.virt s = some false →
    (s.pc.toNat + 4 < 2 ^ 64 →
      ∃ t, exec (.mopRN n rd rs1) s = .next t ∧ exec (.mopRRN m rd rs1 rs2) s = .next t ∧ t.pc = s.pc + 4#64 ∧
        t.x rd = 0#64 ∧ sameRegsBut rd s t ∧ sameButRegsPc s t) ∧
    (s.pc.toNat + 2 < 2 ^ 64 → exec (.cmopN k) s = .next { s with pc := s.pc + 2#64 })

/-! ### Frames and whole-machine rules -/

/-- R110, R181, R243 and the frame of all ten instructions. That memory never changes is the spec's decision D24 (log 14),
that no instruction changes the mode is D10 (no trap entry; log 9), that `dcsr` never changes is D19 (log 22), what the MOP
words leave is general knowledge (G8, G9: PRESUMED, log 29), and that ELP changes through `mseccfg` alone is D23 (log 31).
What a completed instruction may change, register by register, and through which CSR; memory, mode and `dcsr` never change. -/
def Obligations.InstructionFrame : Prop :=
  ∀ (i : Instr) (s t : State), exec i s = .next t →
    sameMode s t ∧ sameMemory s t ∧ t.mem = s.mem ∧ t.dcsr = s.dcsr ∧
    (∀ r : Reg, destOf i ≠ some r → t.x r = s.x r) ∧ t.x 0#5 = 0#64 ∧
    (csrNumOf i ≠ some (csrAddr .ssp) → t.ssp = s.ssp) ∧
    (csrNumOf i ≠ some (csrAddr .menvcfg) → t.menvcfg = s.menvcfg) ∧
    (csrNumOf i ≠ some (csrAddr .mseccfg) → t.mseccfg = s.mseccfg ∧ t.sspmp = s.sspmp ∧ t.elp = s.elp) ∧
    (csrNumOf i ≠ some (csrAddr .menvcfg) →
      (csrNumOf i ≠ some (csrAddr .henvcfg) → t.henvcfg = s.henvcfg ∧
        (csrNumOf i ≠ some (csrAddr .vsstatus) → (csrNumOf i = some (csrAddr .sstatus) → s.virt = false) →
          t.vsstatus = s.vsstatus)) ∧
      (csrNumOf i ≠ some (csrAddr .mstatus) → (csrNumOf i = some (csrAddr .sstatus) → s.virt = true) →
        t.mstatus = s.mstatus)) ∧
    (csrNumOf i ≠ some (csrAddr .mstatus) → mstatusMPELP t = mstatusMPELP s) ∧
    (csrNumOf i ≠ some (csrAddr .mstatus) → (csrNumOf i = some (csrAddr .sstatus) → s.virt = true) →
      mstatusSPELP t = mstatusSPELP s) ∧
    (csrNumOf i ≠ some (csrAddr .vsstatus) → (csrNumOf i = some (csrAddr .sstatus) → s.virt = false) →
      vsstatusSPELP t = vsstatusSPELP s)

/-- R23 (general knowledge G4; that a wrapping pc refuses is the spec's decision D15, log 18): a completed instruction moves the
pc past itself without wrapping, and only an instruction whose next pc would pass 2^64 is refused for that. -/
def Obligations.PcAdvancesBySize : Prop :=
  ∀ (i : Instr) (s : State),
    (∀ t, exec i s = .next t → t.pc.toNat = s.pc.toNat + i.size) ∧
    (exec i s = .refused .pcWrap → 2 ^ 64 ≤ s.pc.toNat + i.size) ∧
    (2 ^ 64 ≤ s.pc.toNat + i.size → ∀ t, exec i s ≠ .next t)

/-- R180, R230, R233 (log 9): the only exception of an instruction is the illegal-instruction exception of a CSR instruction
that fails the access check, with its own word and pc. -/
def Obligations.OnlyIllegalInstructionExceptions : Prop :=
  ∀ (i : Instr) (s : State) (e : Fault), exec i s = .fault e →
    ∃ (w : IWord) (csr : CsrNum), csrNumOf i = some csr ∧ csrAccess csr s = .illegal ∧ encode i = parcelsOf w ∧
      e = .illegalInstruction illegalInsnCode (Config.illegalTval w) s.pc

/-- R69 (the spec's decision D9; log 26): in every state, every WPRI and constant-zero position of every CSR but `ssp` reads 0,
and a write leaves the stored ones unchanged. -/
def Obligations.ReservedPositionsReadZero : Prop :=
  ∀ (s : State) (c : Csr), c ≠ .ssp →
    csrRead c s &&& ~~~readMask (layoutOf c) = 0#64 ∧
    (∀ (v : Word) (t : State), t = csrWrite c v s →
      t.menvcfg &&& ~~~readMask menvcfgLayout = s.menvcfg &&& ~~~readMask menvcfgLayout ∧
      t.henvcfg &&& ~~~readMask henvcfgLayout = s.henvcfg &&& ~~~readMask henvcfgLayout ∧
      t.mstatus &&& ~~~readMask mstatusLayout = s.mstatus &&& ~~~readMask mstatusLayout ∧
      t.vsstatus &&& ~~~readMask vsstatusLayout = s.vsstatus &&& ~~~readMask vsstatusLayout ∧
      t.mseccfg &&& ~~~readMask mseccfgLayout = s.mseccfg &&& ~~~readMask mseccfgLayout ∧
      t.dcsr.setWidth 64 &&& ~~~readMask dcsrLayout = s.dcsr.setWidth 64 &&& ~~~readMask dcsrLayout)

/-- R242 (the spec's derivation): no mode less than M can switch its own protection off or on: a completed instruction leaves
both activity predicates of the mode it runs in as they were. -/
def Obligations.NoModeSwitchesItsOwnProtection : Prop :=
  ∀ (i : Instr) (s t : State), s.priv ≠ .M → exec i s = .next t →
    ssActive t.priv t.virt t = ssActive s.priv s.virt s ∧ lpActive t.priv t.virt t = lpActive s.priv s.virt s

/-- R267, R170 (the spec's derivation): where Zicfiss is not active in the current mode, less than M, a run of any length
neither reads nor writes `ssp`: with another value in it, the run ends in the same way, with that value still in it. -/
def Obligations.InactiveModeCannotObserveSsp : Prop :=
  ∀ (k : Nat) (s : State) (v : Word), ssActive s.priv s.virt s = some false →
    Host.Core.run Sys2Proof.core k { s with ssp := v } =
      mapNext (fun t => { t with ssp := v }) (Host.Core.run Sys2Proof.core k s)

/-- R20, R22, R23, R58, R67, R69, R261 (log 26, 31): every step keeps the invariant of the hart: a legal mode, an even pc, the
zero register's slot, reserved positions at 0, a legal SSPMP, NO_LP_EXPECTED where Zicfilp is inactive, and the canonical
form of memory. -/
def Obligations.StepKeepsTheInvariant : Prop :=
  ∀ s t : State, Inv s → step s = .next t → Inv t

/-- R261 (the reset values are the model's: log 10 to 14): the reset state meets the invariant. -/
def Obligations.ResetMeetsTheInvariant : Prop := Inv State.reset

/-- R260, R261 (the suggested values, DESIGN CHOICE, log 10, 11): right after reset the hart is in M-mode with V=0 and
NO_LP_EXPECTED, and neither extension is active in any mode. -/
def Obligations.ResetHasExtensionsOff : Prop :=
  State.reset.priv = .M ∧ State.reset.virt = false ∧ State.reset.elp = .noLpExpected ∧
  (∀ (p : Priv) (v : Bool), lpActive p v State.reset = false ∧ ssActive p v State.reset ≠ some true) ∧
  Config.sspmpLegal (mseccfgSSPMP State.reset) = true

/-- R67, R178, R212 (derivations and the decision D23 of the spec; log 31): an instruction's meaning, begun with either
value of ELP, keeps "ELP is NO_LP_EXPECTED where Zicfilp is not active", M-mode clearing its own enable included. -/
def Obligations.InstructionsKeepElpInvariant : Prop :=
  ∀ (i : Instr) (s t : State), elpInvariant s → exec i s = .next t → elpInvariant t

/-- R263, R64 (the spec's derivation and decision D5; log 4): after M-mode opens the gate, a write to each gated field fixes it
whatever was drawn, in the order menvcfg, henvcfg, vsstatus; and clearing `menvcfg.SBCFIE` makes Zicfiss inactive in the four
modes less than M at once. -/
def Obligations.EnablingOrderFixesGatedFields : Prop :=
  ∀ (s : State) (v u w : Word),
    (v.getLsbD 60 = true →
      (csrRead .henvcfg (csrWrite .henvcfg u (csrWrite .menvcfg v s))).getLsbD 60 = u.getLsbD 60 ∧
      (csrRead .mstatus (csrWrite .mstatus u (csrWrite .menvcfg v s))).getLsbD 24 = u.getLsbD 24 ∧
      (u.getLsbD 60 = true →
        (csrRead .vsstatus (csrWrite .vsstatus w (csrWrite .henvcfg u (csrWrite .menvcfg v s)))).getLsbD 24 =
          w.getLsbD 24)) ∧
    (v.getLsbD 60 = false → ∀ (p : Priv) (virt : Bool), p ≠ .M → ssActive p virt (csrWrite .menvcfg v s) = some false)

/-- R6, R100, R103 (the spec's decision D14; log 33): a little-endian write of `n` bytes from `addr` on, modulo 2^64, is read
back as the low `n` bytes of what was written, every other byte reads as before, and the canonical form of memory is kept. -/
def Obligations.MemoryReadAfterWrite : Prop :=
  ∀ (s : State) (addr : Word) (n v : Nat), n ≤ 2 ^ 64 →
    memRead addr n (memWrite addr n v s) = some (v % 256 ^ n) ∧
    (∀ a : Nat, (∀ k < n, a ≠ (addr + BitVec.ofNat 64 k).toNat) → (memWrite addr n v s).mem.read a = s.mem.read a) ∧
    (s.mem.wf = true → (memWrite addr n v s).mem.wf = true)

/-! ### Every configuration (R4): the machine of the statements above is the one at the defaults -/

/-- R4 (log 1, 2, 7): `exec`, `step`, the decoder and the access check are those under the default configuration, and an
instruction that addresses no CSR means the same under every configuration. -/
def Obligations.DefaultConfiguration : Prop :=
  (∀ (i : Instr) (s : State), exec i s = execIn defaultParams i s) ∧
  (∀ s : State, step s = stepIn defaultParams s) ∧
  (∀ bytes : List Byte, decode bytes = decodeIn defaultParams.lpad bytes) ∧
  (∀ (a : CsrNum) (s : State), csrAccess a s = csrAccessIn defaultParams a s) ∧
  (∀ (P : Config.Params) (i : Instr) (s : State), csrNumOf i = none → execIn P i s = exec i s)

/-- R8, R214 (log 16) under every configuration: a step begun with NO_LP_EXPECTED at bytes that decode to an instruction is that
instruction's meaning, and one begun with LP_EXPECTED is refused. -/
def Obligations.ConfiguredStepRunsDecodedInstruction : Prop :=
  ∀ (P : Config.Params) (s : State),
    (∀ (i : Instr) (rest : List Byte), s.elp = .noLpExpected → decodeIn P.lpad (fetchBytes s) = .ok (i, rest) →
      stepIn P s = execIn P i s) ∧
    (s.elp = .lpExpected → stepIn P s = .refused .elpExpected)

/-- R135, R137 (the spec's decision D20; log 2), for every `LPAD_MASK` and `LPAD_MATCH`: a word that fits one of the eight other
rows decodes as at the default; a word that fits none of them is `lpad`, its label in bits 31 to 12, exactly when it fits that
pattern, and nothing otherwise. -/
def Obligations.ConfiguredLpadPattern : Prop :=
  ∀ (L : Config.LpadCode) (w : IWord),
    (∀ p ∈ wordRows.take 8, fits w p.1 p.2 = true → decodeWordIn L w = decodeWord w) ∧
    ((∀ p ∈ wordRows.take 8, fits w p.1 p.2 = false) →
      decodeWordIn L w = if fits w L.mask L.pattern then some (.lpad (w.extractLsb' 12 20)) else none)

/-- R21, R139, R162, R170 (the spec's decisions D3, D7, D12; log 1, 7, 28, 35, 39) for all eight CSR numbers, distinct, and
every `csr_priv_ok`: the check follows `csr_priv_ok` for every CSR but `ssp`, and for `ssp` the gate of R170 alone; the
numbers of `menvcfgh` and `henvcfgh` are illegal and every other number is refused. -/
def Obligations.ConfiguredAccessCheck : Prop :=
  ∀ (P : Config.Params) (s : State), distinctNums P →
    (∀ c : Csr, c ≠ .ssp →
      (P.csrPrivOk c s.priv s.virt = .ok → csrAccessIn P (csrNumIn P c) s = .ok c) ∧
      (P.csrPrivOk c s.priv s.virt = .illegal → csrAccessIn P (csrNumIn P c) s = .illegal) ∧
      (P.csrPrivOk c s.priv s.virt = .refuse → csrAccessIn P (csrNumIn P c) s = .refuse .guestCsrAccess)) ∧
    (s.priv = .M → csrAccessIn P P.sspCsrAddr s = .ok .ssp) ∧
    (s.priv ≠ .M → csrAccessIn P P.sspCsrAddr s =
      if ssActive s.priv s.virt s = some true then .ok .ssp else .illegal) ∧
    (∀ a : CsrNum, (∀ c : Csr, a ≠ csrNumIn P c) →
      csrAccessIn P a s = if a = menvcfghAddr ∨ a = henvcfghAddr then .illegal else .refuse .csrNotInSpec)

/-- R160, R161, R171 to R176, R180, R234 (log 8, 9) under every configuration: each of the six CSR instructions ends by what the
access check answers: illegal, refused, or the result that its rule gives, where the next pc is below 2^64. -/
def Obligations.ConfiguredCsrInstructions : Prop :=
  ∀ (P : Config.Params) (s : State) (rd : Reg) (csr : CsrNum) (src : BitVec 5),
    (∀ p ∈ csrForms rd csr src,
      (csrAccessIn P csr s = .illegal →
        execIn P p.1 s = .fault (.illegalInstruction illegalInsnCode (Config.illegalTval p.2) s.pc)) ∧
      (∀ r : Refusal, csrAccessIn P csr s = .refuse r → execIn P p.1 s = .refused r)) ∧
    (∀ c : Csr, csrAccessIn P csr s = .ok c → s.pc.toNat + 4 < 2 ^ 64 →
      (∃ t, execIn P (.csrrw rd csr src) s = .next t ∧ csrResult s (csrWrite c (s.x src) s) rd (csrRead c s) t) ∧
      (∃ t, execIn P (.csrrs rd csr src) s = .next t ∧
        csrResult s (if src = 0#5 then s else csrWrite c (csrRead c s ||| s.x src) s) rd (csrRead c s) t) ∧
      (∃ t, execIn P (.csrrc rd csr src) s = .next t ∧
        csrResult s (if src = 0#5 then s else csrWrite c (csrRead c s &&& ~~~(s.x src)) s) rd (csrRead c s) t) ∧
      (∃ t, execIn P (.csrrwi rd csr src) s = .next t ∧
        csrResult s (csrWrite c (BitVec.ofNat 64 src.toNat) s) rd (csrRead c s) t) ∧
      (∃ t, execIn P (.csrrsi rd csr src) s = .next t ∧
        csrResult s (if src = 0#5 then s else csrWrite c (csrRead c s ||| BitVec.ofNat 64 src.toNat) s) rd
          (csrRead c s) t) ∧
      (∃ t, execIn P (.csrrci rd csr src) s = .next t ∧
        csrResult s (if src = 0#5 then s else csrWrite c (csrRead c s &&& ~~~(BitVec.ofNat 64 src.toNat)) s) rd
          (csrRead c s) t))

/-- R20, R22, R23, R58, R67, R69, R261 (log 26, 31) under every configuration, an access table that lets a mode below M write
another mode's enables among them: every step keeps the invariant of the hart. -/
def Obligations.ConfiguredStepKeepsTheInvariant : Prop :=
  ∀ (P : Config.Params) (s t : State), Inv s → stepIn P s = .next t → Inv t
end

