-- ==== Sys2Proof/Laws/Bits.lean ====
section
/-! SUPPORT. What the bit-field helpers do to each bit, and general registers read after write. -/

namespace Sys2Proof.Machine

@[simp] theorem getLsbD_merge {k : Nat} (old mask new : BitVec k) (i : Nat) :
    (merge old mask new).getLsbD i = if mask.getLsbD i then new.getLsbD i else old.getLsbD i := by
  simp only [merge, BitVec.getLsbD_or, BitVec.getLsbD_and, BitVec.getLsbD_not]
  by_cases h : i < k
  · cases mask.getLsbD i <;> simp [h]
  · simp [h, BitVec.getLsbD_of_ge _ _ (Nat.le_of_not_lt h)]

theorem getLsbD_bitMask (k i j : Nat) : (bitMask k i).getLsbD j = (decide (j < k) && decide (i = j)) := by
  unfold bitMask
  rw [BitVec.getLsbD_ofNat, Nat.testBit_two_pow]

theorem getLsbD_putBit {k : Nat} (i : Nat) (b : Bool) (v : BitVec k) (j : Nat) (h : i < k) :
    (putBit i b v).getLsbD j = if j = i then b else v.getLsbD j := by
  simp only [putBit, getLsbD_merge, getLsbD_bitMask]
  by_cases hj : j = i
  · subst hj; cases b <;> simp [h, getLsbD_bitMask]
  · simp [hj, Ne.symm hj]

theorem x_zero (s : State) : s.x 0#5 = 0#64 := by simp [State.x]

/-- What a write of a general register does to every read (R22): `x[0]` keeps reading 0, `x[i]` reads the value written. -/
theorem x_setX (s : State) (i r : Reg) (v : Word) :
    (s.setX i v).x r = if r = i ∧ i ≠ 0#5 then v else s.x r := by
  unfold State.setX
  by_cases hi : i = 0#5
  · simp [hi]
  · by_cases hr : r = 0#5
    · have : ¬ (0#5 = i ∧ i ≠ 0#5) := fun h => hi h.1.symm
      simp [State.x, hr, this]
    · have hne : (i.toNat = r.toNat) ↔ r = i := by rw [BitVec.toNat_inj]; exact eq_comm
      simp [State.x, hi, hr, Vector.getElem_set, hne]

end Sys2Proof.Machine
end

