-- ==== Sys2Proof/Laws/Layout.lean ====
section
/-! SUPPORT. The masks of the layouts as numbers, and the widths of the figures (10_state.md R25, R30, R35, R45, R50, R57, R62). -/

namespace Sys2Proof.Machine

theorem layout_widths :
    [menvcfgLayout, henvcfgLayout, mstatusLayout, sstatusLayout, vsstatusLayout, mseccfgLayout, dcsrLayout].map layoutWidth
      = [64, 64, 64, 64, 64, 64, 32] := by decide

theorem henvcfgLayout_eq : henvcfgLayout = menvcfgLayout := rfl
theorem vsstatusLayout_eq : vsstatusLayout = sstatusLayout := rfl

theorem cfiMask_menvcfg : cfiMask menvcfgLayout = 0x1800000000000000#64 := by decide
theorem cfiMask_mstatus : cfiMask mstatusLayout = 0x7800000#64 := by decide
theorem cfiMask_sstatus : cfiMask sstatusLayout = 0x3800000#64 := by decide
theorem cfiMask_mseccfg : cfiMask mseccfgLayout = 0x1FC00#64 := by decide
theorem cfiMask_dcsr : cfiMask dcsrLayout = 0x40000#64 := by decide

theorem drawnMask_menvcfg : drawnMask menvcfgLayout = 0xE0000000000000F1#64 := by decide
theorem drawnMask_mstatus : drawnMask mstatusLayout = 0x8000003F007FFFEA#64 := by decide
theorem drawnMask_sstatus : drawnMask sstatusLayout = 0x80000003000DE762#64 := by decide
theorem drawnMask_mseccfg : drawnMask mseccfgLayout = 0x307#64 := by decide
theorem drawnMask_dcsr : drawnMask dcsrLayout = 0xF003BFFF#64 := by decide

theorem readMask_menvcfg : readMask menvcfgLayout = 0xF8000000000000F1#64 := by decide
theorem readMask_mstatus : readMask mstatusLayout = 0x8000003F07FFFFEA#64 := by decide
theorem readMask_sstatus : readMask sstatusLayout = 0x80000003038DE762#64 := by decide
theorem readMask_mseccfg : readMask mseccfgLayout = 0x1FF07#64 := by decide
theorem readMask_dcsr : readMask dcsrLayout = 0xF007BFFF#64 := by decide

end Sys2Proof.Machine
end

