-- ==== Sys2Proof/Laws/State.lean ====
section
/-! SUPPORT. One lemma per field per update: what each named update of the state leaves unchanged. -/

namespace Sys2Proof.Machine

/-! `memWrite` -/

@[simp] theorem memWrite_priv (a : Word) (n v : Nat) (s : State) : (memWrite a n v s).priv = s.priv := rfl
@[simp] theorem memWrite_virt (a : Word) (n v : Nat) (s : State) : (memWrite a n v s).virt = s.virt := rfl
@[simp] theorem memWrite_pc (a : Word) (n v : Nat) (s : State) : (memWrite a n v s).pc = s.pc := rfl
@[simp] theorem memWrite_regs (a : Word) (n v : Nat) (s : State) : (memWrite a n v s).regs = s.regs := rfl
@[simp] theorem memWrite_elp (a : Word) (n v : Nat) (s : State) : (memWrite a n v s).elp = s.elp := rfl
@[simp] theorem memWrite_ssp (a : Word) (n v : Nat) (s : State) : (memWrite a n v s).ssp = s.ssp := rfl
@[simp] theorem memWrite_menvcfg (a : Word) (n v : Nat) (s : State) : (memWrite a n v s).menvcfg = s.menvcfg := rfl
@[simp] theorem memWrite_henvcfg (a : Word) (n v : Nat) (s : State) : (memWrite a n v s).henvcfg = s.henvcfg := rfl
@[simp] theorem memWrite_mstatus (a : Word) (n v : Nat) (s : State) : (memWrite a n v s).mstatus = s.mstatus := rfl
@[simp] theorem memWrite_vsstatus (a : Word) (n v : Nat) (s : State) : (memWrite a n v s).vsstatus = s.vsstatus := rfl
@[simp] theorem memWrite_mseccfg (a : Word) (n v : Nat) (s : State) : (memWrite a n v s).mseccfg = s.mseccfg := rfl
@[simp] theorem memWrite_sspmp (a : Word) (n v : Nat) (s : State) : (memWrite a n v s).sspmp = s.sspmp := rfl
@[simp] theorem memWrite_dcsr (a : Word) (n v : Nat) (s : State) : (memWrite a n v s).dcsr = s.dcsr := rfl
@[simp] theorem memWrite_draws (a : Word) (n v : Nat) (s : State) : (memWrite a n v s).draws = s.draws := rfl

/-! `setX` -/

@[simp] theorem setX_priv (i : Reg) (v : Word) (s : State) : (s.setX i v).priv = s.priv := by unfold State.setX; split <;> rfl
@[simp] theorem setX_virt (i : Reg) (v : Word) (s : State) : (s.setX i v).virt = s.virt := by unfold State.setX; split <;> rfl
@[simp] theorem setX_pc (i : Reg) (v : Word) (s : State) : (s.setX i v).pc = s.pc := by unfold State.setX; split <;> rfl
@[simp] theorem setX_elp (i : Reg) (v : Word) (s : State) : (s.setX i v).elp = s.elp := by unfold State.setX; split <;> rfl
@[simp] theorem setX_ssp (i : Reg) (v : Word) (s : State) : (s.setX i v).ssp = s.ssp := by unfold State.setX; split <;> rfl
@[simp] theorem setX_menvcfg (i : Reg) (v : Word) (s : State) : (s.setX i v).menvcfg = s.menvcfg := by unfold State.setX; split <;> rfl
@[simp] theorem setX_henvcfg (i : Reg) (v : Word) (s : State) : (s.setX i v).henvcfg = s.henvcfg := by unfold State.setX; split <;> rfl
@[simp] theorem setX_mstatus (i : Reg) (v : Word) (s : State) : (s.setX i v).mstatus = s.mstatus := by unfold State.setX; split <;> rfl
@[simp] theorem setX_vsstatus (i : Reg) (v : Word) (s : State) : (s.setX i v).vsstatus = s.vsstatus := by unfold State.setX; split <;> rfl
@[simp] theorem setX_mseccfg (i : Reg) (v : Word) (s : State) : (s.setX i v).mseccfg = s.mseccfg := by unfold State.setX; split <;> rfl
@[simp] theorem setX_sspmp (i : Reg) (v : Word) (s : State) : (s.setX i v).sspmp = s.sspmp := by unfold State.setX; split <;> rfl
@[simp] theorem setX_dcsr (i : Reg) (v : Word) (s : State) : (s.setX i v).dcsr = s.dcsr := by unfold State.setX; split <;> rfl
@[simp] theorem setX_mem (i : Reg) (v : Word) (s : State) : (s.setX i v).mem = s.mem := by unfold State.setX; split <;> rfl
@[simp] theorem setX_draws (i : Reg) (v : Word) (s : State) : (s.setX i v).draws = s.draws := by unfold State.setX; split <;> rfl

/-! `setXIf` -/

@[simp] theorem setXIf_priv (b : Bool) (i : Reg) (v : Word) (s : State) : (setXIf b i v s).priv = s.priv := by cases b <;> simp [setXIf]
@[simp] theorem setXIf_virt (b : Bool) (i : Reg) (v : Word) (s : State) : (setXIf b i v s).virt = s.virt := by cases b <;> simp [setXIf]
@[simp] theorem setXIf_pc (b : Bool) (i : Reg) (v : Word) (s : State) : (setXIf b i v s).pc = s.pc := by cases b <;> simp [setXIf]
@[simp] theorem setXIf_elp (b : Bool) (i : Reg) (v : Word) (s : State) : (setXIf b i v s).elp = s.elp := by cases b <;> simp [setXIf]
@[simp] theorem setXIf_ssp (b : Bool) (i : Reg) (v : Word) (s : State) : (setXIf b i v s).ssp = s.ssp := by cases b <;> simp [setXIf]
@[simp] theorem setXIf_menvcfg (b : Bool) (i : Reg) (v : Word) (s : State) : (setXIf b i v s).menvcfg = s.menvcfg := by cases b <;> simp [setXIf]
@[simp] theorem setXIf_henvcfg (b : Bool) (i : Reg) (v : Word) (s : State) : (setXIf b i v s).henvcfg = s.henvcfg := by cases b <;> simp [setXIf]
@[simp] theorem setXIf_mstatus (b : Bool) (i : Reg) (v : Word) (s : State) : (setXIf b i v s).mstatus = s.mstatus := by cases b <;> simp [setXIf]
@[simp] theorem setXIf_vsstatus (b : Bool) (i : Reg) (v : Word) (s : State) : (setXIf b i v s).vsstatus = s.vsstatus := by cases b <;> simp [setXIf]
@[simp] theorem setXIf_mseccfg (b : Bool) (i : Reg) (v : Word) (s : State) : (setXIf b i v s).mseccfg = s.mseccfg := by cases b <;> simp [setXIf]
@[simp] theorem setXIf_sspmp (b : Bool) (i : Reg) (v : Word) (s : State) : (setXIf b i v s).sspmp = s.sspmp := by cases b <;> simp [setXIf]
@[simp] theorem setXIf_dcsr (b : Bool) (i : Reg) (v : Word) (s : State) : (setXIf b i v s).dcsr = s.dcsr := by cases b <;> simp [setXIf]
@[simp] theorem setXIf_mem (b : Bool) (i : Reg) (v : Word) (s : State) : (setXIf b i v s).mem = s.mem := by cases b <;> simp [setXIf]
@[simp] theorem setXIf_draws (b : Bool) (i : Reg) (v : Word) (s : State) : (setXIf b i v s).draws = s.draws := by cases b <;> simp [setXIf]

/-! `drawAtMenvcfgGate` -/

@[simp] theorem drawAtMenvcfgGate_priv (s : State) : (drawAtMenvcfgGate s).priv = s.priv := rfl
@[simp] theorem drawAtMenvcfgGate_virt (s : State) : (drawAtMenvcfgGate s).virt = s.virt := rfl
@[simp] theorem drawAtMenvcfgGate_pc (s : State) : (drawAtMenvcfgGate s).pc = s.pc := rfl
@[simp] theorem drawAtMenvcfgGate_regs (s : State) : (drawAtMenvcfgGate s).regs = s.regs := rfl
@[simp] theorem drawAtMenvcfgGate_elp (s : State) : (drawAtMenvcfgGate s).elp = s.elp := rfl
@[simp] theorem drawAtMenvcfgGate_ssp (s : State) : (drawAtMenvcfgGate s).ssp = s.ssp := rfl
@[simp] theorem drawAtMenvcfgGate_menvcfg (s : State) : (drawAtMenvcfgGate s).menvcfg = s.menvcfg := rfl
@[simp] theorem drawAtMenvcfgGate_mseccfg (s : State) : (drawAtMenvcfgGate s).mseccfg = s.mseccfg := rfl
@[simp] theorem drawAtMenvcfgGate_sspmp (s : State) : (drawAtMenvcfgGate s).sspmp = s.sspmp := rfl
@[simp] theorem drawAtMenvcfgGate_dcsr (s : State) : (drawAtMenvcfgGate s).dcsr = s.dcsr := rfl
@[simp] theorem drawAtMenvcfgGate_mem (s : State) : (drawAtMenvcfgGate s).mem = s.mem := rfl

/-! `drawAtHenvcfgGate` -/

@[simp] theorem drawAtHenvcfgGate_priv (s : State) : (drawAtHenvcfgGate s).priv = s.priv := rfl
@[simp] theorem drawAtHenvcfgGate_virt (s : State) : (drawAtHenvcfgGate s).virt = s.virt := rfl
@[simp] theorem drawAtHenvcfgGate_pc (s : State) : (drawAtHenvcfgGate s).pc = s.pc := rfl
@[simp] theorem drawAtHenvcfgGate_regs (s : State) : (drawAtHenvcfgGate s).regs = s.regs := rfl
@[simp] theorem drawAtHenvcfgGate_elp (s : State) : (drawAtHenvcfgGate s).elp = s.elp := rfl
@[simp] theorem drawAtHenvcfgGate_ssp (s : State) : (drawAtHenvcfgGate s).ssp = s.ssp := rfl
@[simp] theorem drawAtHenvcfgGate_menvcfg (s : State) : (drawAtHenvcfgGate s).menvcfg = s.menvcfg := rfl
@[simp] theorem drawAtHenvcfgGate_henvcfg (s : State) : (drawAtHenvcfgGate s).henvcfg = s.henvcfg := rfl
@[simp] theorem drawAtHenvcfgGate_mstatus (s : State) : (drawAtHenvcfgGate s).mstatus = s.mstatus := rfl
@[simp] theorem drawAtHenvcfgGate_mseccfg (s : State) : (drawAtHenvcfgGate s).mseccfg = s.mseccfg := rfl
@[simp] theorem drawAtHenvcfgGate_sspmp (s : State) : (drawAtHenvcfgGate s).sspmp = s.sspmp := rfl
@[simp] theorem drawAtHenvcfgGate_dcsr (s : State) : (drawAtHenvcfgGate s).dcsr = s.dcsr := rfl
@[simp] theorem drawAtHenvcfgGate_mem (s : State) : (drawAtHenvcfgGate s).mem = s.mem := rfl

/-! `storeMenvcfg` -/

@[simp] theorem storeMenvcfg_priv (v : Word) (s : State) : (storeMenvcfg v s).priv = s.priv := rfl
@[simp] theorem storeMenvcfg_virt (v : Word) (s : State) : (storeMenvcfg v s).virt = s.virt := rfl
@[simp] theorem storeMenvcfg_pc (v : Word) (s : State) : (storeMenvcfg v s).pc = s.pc := rfl
@[simp] theorem storeMenvcfg_regs (v : Word) (s : State) : (storeMenvcfg v s).regs = s.regs := rfl
@[simp] theorem storeMenvcfg_elp (v : Word) (s : State) : (storeMenvcfg v s).elp = s.elp := rfl
@[simp] theorem storeMenvcfg_ssp (v : Word) (s : State) : (storeMenvcfg v s).ssp = s.ssp := rfl
@[simp] theorem storeMenvcfg_henvcfg (v : Word) (s : State) : (storeMenvcfg v s).henvcfg = s.henvcfg := rfl
@[simp] theorem storeMenvcfg_mstatus (v : Word) (s : State) : (storeMenvcfg v s).mstatus = s.mstatus := rfl
@[simp] theorem storeMenvcfg_vsstatus (v : Word) (s : State) : (storeMenvcfg v s).vsstatus = s.vsstatus := rfl
@[simp] theorem storeMenvcfg_mseccfg (v : Word) (s : State) : (storeMenvcfg v s).mseccfg = s.mseccfg := rfl
@[simp] theorem storeMenvcfg_sspmp (v : Word) (s : State) : (storeMenvcfg v s).sspmp = s.sspmp := rfl
@[simp] theorem storeMenvcfg_dcsr (v : Word) (s : State) : (storeMenvcfg v s).dcsr = s.dcsr := rfl
@[simp] theorem storeMenvcfg_mem (v : Word) (s : State) : (storeMenvcfg v s).mem = s.mem := rfl
@[simp] theorem storeMenvcfg_draws (v : Word) (s : State) : (storeMenvcfg v s).draws = s.draws := rfl

/-! `writeMenvcfg` -/

@[simp] theorem writeMenvcfg_priv (v : Word) (s : State) : (writeMenvcfg v s).priv = s.priv := by unfold writeMenvcfg; split <;> rfl
@[simp] theorem writeMenvcfg_virt (v : Word) (s : State) : (writeMenvcfg v s).virt = s.virt := by unfold writeMenvcfg; split <;> rfl
@[simp] theorem writeMenvcfg_pc (v : Word) (s : State) : (writeMenvcfg v s).pc = s.pc := by unfold writeMenvcfg; split <;> rfl
@[simp] theorem writeMenvcfg_regs (v : Word) (s : State) : (writeMenvcfg v s).regs = s.regs := by unfold writeMenvcfg; split <;> rfl
@[simp] theorem writeMenvcfg_elp (v : Word) (s : State) : (writeMenvcfg v s).elp = s.elp := by unfold writeMenvcfg; split <;> rfl
@[simp] theorem writeMenvcfg_ssp (v : Word) (s : State) : (writeMenvcfg v s).ssp = s.ssp := by unfold writeMenvcfg; split <;> rfl
@[simp] theorem writeMenvcfg_mseccfg (v : Word) (s : State) : (writeMenvcfg v s).mseccfg = s.mseccfg := by unfold writeMenvcfg; split <;> rfl
@[simp] theorem writeMenvcfg_sspmp (v : Word) (s : State) : (writeMenvcfg v s).sspmp = s.sspmp := by unfold writeMenvcfg; split <;> rfl
@[simp] theorem writeMenvcfg_dcsr (v : Word) (s : State) : (writeMenvcfg v s).dcsr = s.dcsr := by unfold writeMenvcfg; split <;> rfl
@[simp] theorem writeMenvcfg_mem (v : Word) (s : State) : (writeMenvcfg v s).mem = s.mem := by unfold writeMenvcfg; split <;> rfl

/-! `storeHenvcfg` -/

@[simp] theorem storeHenvcfg_priv (v : Word) (s : State) : (storeHenvcfg v s).priv = s.priv := rfl
@[simp] theorem storeHenvcfg_virt (v : Word) (s : State) : (storeHenvcfg v s).virt = s.virt := rfl
@[simp] theorem storeHenvcfg_pc (v : Word) (s : State) : (storeHenvcfg v s).pc = s.pc := rfl
@[simp] theorem storeHenvcfg_regs (v : Word) (s : State) : (storeHenvcfg v s).regs = s.regs := rfl
@[simp] theorem storeHenvcfg_elp (v : Word) (s : State) : (storeHenvcfg v s).elp = s.elp := rfl
@[simp] theorem storeHenvcfg_ssp (v : Word) (s : State) : (storeHenvcfg v s).ssp = s.ssp := rfl
@[simp] theorem storeHenvcfg_menvcfg (v : Word) (s : State) : (storeHenvcfg v s).menvcfg = s.menvcfg := rfl
@[simp] theorem storeHenvcfg_mstatus (v : Word) (s : State) : (storeHenvcfg v s).mstatus = s.mstatus := rfl
@[simp] theorem storeHenvcfg_vsstatus (v : Word) (s : State) : (storeHenvcfg v s).vsstatus = s.vsstatus := rfl
@[simp] theorem storeHenvcfg_mseccfg (v : Word) (s : State) : (storeHenvcfg v s).mseccfg = s.mseccfg := rfl
@[simp] theorem storeHenvcfg_sspmp (v : Word) (s : State) : (storeHenvcfg v s).sspmp = s.sspmp := rfl
@[simp] theorem storeHenvcfg_dcsr (v : Word) (s : State) : (storeHenvcfg v s).dcsr = s.dcsr := rfl
@[simp] theorem storeHenvcfg_mem (v : Word) (s : State) : (storeHenvcfg v s).mem = s.mem := rfl
@[simp] theorem storeHenvcfg_draws (v : Word) (s : State) : (storeHenvcfg v s).draws = s.draws := rfl

/-! `writeHenvcfg` -/

@[simp] theorem writeHenvcfg_priv (v : Word) (s : State) : (writeHenvcfg v s).priv = s.priv := by unfold writeHenvcfg; split <;> rfl
@[simp] theorem writeHenvcfg_virt (v : Word) (s : State) : (writeHenvcfg v s).virt = s.virt := by unfold writeHenvcfg; split <;> rfl
@[simp] theorem writeHenvcfg_pc (v : Word) (s : State) : (writeHenvcfg v s).pc = s.pc := by unfold writeHenvcfg; split <;> rfl
@[simp] theorem writeHenvcfg_regs (v : Word) (s : State) : (writeHenvcfg v s).regs = s.regs := by unfold writeHenvcfg; split <;> rfl
@[simp] theorem writeHenvcfg_elp (v : Word) (s : State) : (writeHenvcfg v s).elp = s.elp := by unfold writeHenvcfg; split <;> rfl
@[simp] theorem writeHenvcfg_ssp (v : Word) (s : State) : (writeHenvcfg v s).ssp = s.ssp := by unfold writeHenvcfg; split <;> rfl
@[simp] theorem writeHenvcfg_menvcfg (v : Word) (s : State) : (writeHenvcfg v s).menvcfg = s.menvcfg := by unfold writeHenvcfg; split <;> rfl
@[simp] theorem writeHenvcfg_mstatus (v : Word) (s : State) : (writeHenvcfg v s).mstatus = s.mstatus := by unfold writeHenvcfg; split <;> rfl
@[simp] theorem writeHenvcfg_mseccfg (v : Word) (s : State) : (writeHenvcfg v s).mseccfg = s.mseccfg := by unfold writeHenvcfg; split <;> rfl
@[simp] theorem writeHenvcfg_sspmp (v : Word) (s : State) : (writeHenvcfg v s).sspmp = s.sspmp := by unfold writeHenvcfg; split <;> rfl
@[simp] theorem writeHenvcfg_dcsr (v : Word) (s : State) : (writeHenvcfg v s).dcsr = s.dcsr := by unfold writeHenvcfg; split <;> rfl
@[simp] theorem writeHenvcfg_mem (v : Word) (s : State) : (writeHenvcfg v s).mem = s.mem := by unfold writeHenvcfg; split <;> rfl

/-! `writeMstatus` -/

@[simp] theorem writeMstatus_priv (v : Word) (s : State) : (writeMstatus v s).priv = s.priv := rfl
@[simp] theorem writeMstatus_virt (v : Word) (s : State) : (writeMstatus v s).virt = s.virt := rfl
@[simp] theorem writeMstatus_pc (v : Word) (s : State) : (writeMstatus v s).pc = s.pc := rfl
@[simp] theorem writeMstatus_regs (v : Word) (s : State) : (writeMstatus v s).regs = s.regs := rfl
@[simp] theorem writeMstatus_elp (v : Word) (s : State) : (writeMstatus v s).elp = s.elp := rfl
@[simp] theorem writeMstatus_ssp (v : Word) (s : State) : (writeMstatus v s).ssp = s.ssp := rfl
@[simp] theorem writeMstatus_menvcfg (v : Word) (s : State) : (writeMstatus v s).menvcfg = s.menvcfg := rfl
@[simp] theorem writeMstatus_henvcfg (v : Word) (s : State) : (writeMstatus v s).henvcfg = s.henvcfg := rfl
@[simp] theorem writeMstatus_vsstatus (v : Word) (s : State) : (writeMstatus v s).vsstatus = s.vsstatus := rfl
@[simp] theorem writeMstatus_mseccfg (v : Word) (s : State) : (writeMstatus v s).mseccfg = s.mseccfg := rfl
@[simp] theorem writeMstatus_sspmp (v : Word) (s : State) : (writeMstatus v s).sspmp = s.sspmp := rfl
@[simp] theorem writeMstatus_dcsr (v : Word) (s : State) : (writeMstatus v s).dcsr = s.dcsr := rfl
@[simp] theorem writeMstatus_mem (v : Word) (s : State) : (writeMstatus v s).mem = s.mem := rfl
@[simp] theorem writeMstatus_draws (v : Word) (s : State) : (writeMstatus v s).draws = s.draws := rfl

/-! `writeVsstatus` -/

@[simp] theorem writeVsstatus_priv (v : Word) (s : State) : (writeVsstatus v s).priv = s.priv := rfl
@[simp] theorem writeVsstatus_virt (v : Word) (s : State) : (writeVsstatus v s).virt = s.virt := rfl
@[simp] theorem writeVsstatus_pc (v : Word) (s : State) : (writeVsstatus v s).pc = s.pc := rfl
@[simp] theorem writeVsstatus_regs (v : Word) (s : State) : (writeVsstatus v s).regs = s.regs := rfl
@[simp] theorem writeVsstatus_elp (v : Word) (s : State) : (writeVsstatus v s).elp = s.elp := rfl
@[simp] theorem writeVsstatus_ssp (v : Word) (s : State) : (writeVsstatus v s).ssp = s.ssp := rfl
@[simp] theorem writeVsstatus_menvcfg (v : Word) (s : State) : (writeVsstatus v s).menvcfg = s.menvcfg := rfl
@[simp] theorem writeVsstatus_henvcfg (v : Word) (s : State) : (writeVsstatus v s).henvcfg = s.henvcfg := rfl
@[simp] theorem writeVsstatus_mstatus (v : Word) (s : State) : (writeVsstatus v s).mstatus = s.mstatus := rfl
@[simp] theorem writeVsstatus_mseccfg (v : Word) (s : State) : (writeVsstatus v s).mseccfg = s.mseccfg := rfl
@[simp] theorem writeVsstatus_sspmp (v : Word) (s : State) : (writeVsstatus v s).sspmp = s.sspmp := rfl
@[simp] theorem writeVsstatus_dcsr (v : Word) (s : State) : (writeVsstatus v s).dcsr = s.dcsr := rfl
@[simp] theorem writeVsstatus_mem (v : Word) (s : State) : (writeVsstatus v s).mem = s.mem := rfl
@[simp] theorem writeVsstatus_draws (v : Word) (s : State) : (writeVsstatus v s).draws = s.draws := rfl

/-! `writeSstatus` -/

@[simp] theorem writeSstatus_priv (v : Word) (s : State) : (writeSstatus v s).priv = s.priv := by unfold writeSstatus; split <;> rfl
@[simp] theorem writeSstatus_virt (v : Word) (s : State) : (writeSstatus v s).virt = s.virt := by unfold writeSstatus; split <;> rfl
@[simp] theorem writeSstatus_pc (v : Word) (s : State) : (writeSstatus v s).pc = s.pc := by unfold writeSstatus; split <;> rfl
@[simp] theorem writeSstatus_regs (v : Word) (s : State) : (writeSstatus v s).regs = s.regs := by unfold writeSstatus; split <;> rfl
@[simp] theorem writeSstatus_elp (v : Word) (s : State) : (writeSstatus v s).elp = s.elp := by unfold writeSstatus; split <;> rfl
@[simp] theorem writeSstatus_ssp (v : Word) (s : State) : (writeSstatus v s).ssp = s.ssp := by unfold writeSstatus; split <;> rfl
@[simp] theorem writeSstatus_menvcfg (v : Word) (s : State) : (writeSstatus v s).menvcfg = s.menvcfg := by unfold writeSstatus; split <;> rfl
@[simp] theorem writeSstatus_henvcfg (v : Word) (s : State) : (writeSstatus v s).henvcfg = s.henvcfg := by unfold writeSstatus; split <;> rfl
@[simp] theorem writeSstatus_mseccfg (v : Word) (s : State) : (writeSstatus v s).mseccfg = s.mseccfg := by unfold writeSstatus; split <;> rfl
@[simp] theorem writeSstatus_sspmp (v : Word) (s : State) : (writeSstatus v s).sspmp = s.sspmp := by unfold writeSstatus; split <;> rfl
@[simp] theorem writeSstatus_dcsr (v : Word) (s : State) : (writeSstatus v s).dcsr = s.dcsr := by unfold writeSstatus; split <;> rfl
@[simp] theorem writeSstatus_mem (v : Word) (s : State) : (writeSstatus v s).mem = s.mem := by unfold writeSstatus; split <;> rfl
@[simp] theorem writeSstatus_draws (v : Word) (s : State) : (writeSstatus v s).draws = s.draws := by unfold writeSstatus; split <;> rfl

/-! `storeMseccfg` -/

@[simp] theorem storeMseccfg_priv (v : Word) (s : State) : (storeMseccfg v s).priv = s.priv := rfl
@[simp] theorem storeMseccfg_virt (v : Word) (s : State) : (storeMseccfg v s).virt = s.virt := rfl
@[simp] theorem storeMseccfg_pc (v : Word) (s : State) : (storeMseccfg v s).pc = s.pc := rfl
@[simp] theorem storeMseccfg_regs (v : Word) (s : State) : (storeMseccfg v s).regs = s.regs := rfl
@[simp] theorem storeMseccfg_elp (v : Word) (s : State) : (storeMseccfg v s).elp = s.elp := rfl
@[simp] theorem storeMseccfg_ssp (v : Word) (s : State) : (storeMseccfg v s).ssp = s.ssp := rfl
@[simp] theorem storeMseccfg_menvcfg (v : Word) (s : State) : (storeMseccfg v s).menvcfg = s.menvcfg := rfl
@[simp] theorem storeMseccfg_henvcfg (v : Word) (s : State) : (storeMseccfg v s).henvcfg = s.henvcfg := rfl
@[simp] theorem storeMseccfg_mstatus (v : Word) (s : State) : (storeMseccfg v s).mstatus = s.mstatus := rfl
@[simp] theorem storeMseccfg_vsstatus (v : Word) (s : State) : (storeMseccfg v s).vsstatus = s.vsstatus := rfl
@[simp] theorem storeMseccfg_dcsr (v : Word) (s : State) : (storeMseccfg v s).dcsr = s.dcsr := rfl
@[simp] theorem storeMseccfg_mem (v : Word) (s : State) : (storeMseccfg v s).mem = s.mem := rfl
@[simp] theorem storeMseccfg_draws (v : Word) (s : State) : (storeMseccfg v s).draws = s.draws := rfl

/-! `clearElpIfInactive` -/

@[simp] theorem clearElpIfInactive_priv (s : State) : (clearElpIfInactive s).priv = s.priv := by unfold clearElpIfInactive; split <;> rfl
@[simp] theorem clearElpIfInactive_virt (s : State) : (clearElpIfInactive s).virt = s.virt := by unfold clearElpIfInactive; split <;> rfl
@[simp] theorem clearElpIfInactive_pc (s : State) : (clearElpIfInactive s).pc = s.pc := by unfold clearElpIfInactive; split <;> rfl
@[simp] theorem clearElpIfInactive_regs (s : State) : (clearElpIfInactive s).regs = s.regs := by unfold clearElpIfInactive; split <;> rfl
@[simp] theorem clearElpIfInactive_ssp (s : State) : (clearElpIfInactive s).ssp = s.ssp := by unfold clearElpIfInactive; split <;> rfl
@[simp] theorem clearElpIfInactive_menvcfg (s : State) : (clearElpIfInactive s).menvcfg = s.menvcfg := by unfold clearElpIfInactive; split <;> rfl
@[simp] theorem clearElpIfInactive_henvcfg (s : State) : (clearElpIfInactive s).henvcfg = s.henvcfg := by unfold clearElpIfInactive; split <;> rfl
@[simp] theorem clearElpIfInactive_mstatus (s : State) : (clearElpIfInactive s).mstatus = s.mstatus := by unfold clearElpIfInactive; split <;> rfl
@[simp] theorem clearElpIfInactive_vsstatus (s : State) : (clearElpIfInactive s).vsstatus = s.vsstatus := by unfold clearElpIfInactive; split <;> rfl
@[simp] theorem clearElpIfInactive_mseccfg (s : State) : (clearElpIfInactive s).mseccfg = s.mseccfg := by unfold clearElpIfInactive; split <;> rfl
@[simp] theorem clearElpIfInactive_sspmp (s : State) : (clearElpIfInactive s).sspmp = s.sspmp := by unfold clearElpIfInactive; split <;> rfl
@[simp] theorem clearElpIfInactive_dcsr (s : State) : (clearElpIfInactive s).dcsr = s.dcsr := by unfold clearElpIfInactive; split <;> rfl
@[simp] theorem clearElpIfInactive_mem (s : State) : (clearElpIfInactive s).mem = s.mem := by unfold clearElpIfInactive; split <;> rfl
@[simp] theorem clearElpIfInactive_draws (s : State) : (clearElpIfInactive s).draws = s.draws := by unfold clearElpIfInactive; split <;> rfl

/-! `writeMseccfg` -/

@[simp] theorem writeMseccfg_priv (v : Word) (s : State) : (writeMseccfg v s).priv = s.priv := by simp [writeMseccfg]
@[simp] theorem writeMseccfg_virt (v : Word) (s : State) : (writeMseccfg v s).virt = s.virt := by simp [writeMseccfg]
@[simp] theorem writeMseccfg_pc (v : Word) (s : State) : (writeMseccfg v s).pc = s.pc := by simp [writeMseccfg]
@[simp] theorem writeMseccfg_regs (v : Word) (s : State) : (writeMseccfg v s).regs = s.regs := by simp [writeMseccfg]
@[simp] theorem writeMseccfg_ssp (v : Word) (s : State) : (writeMseccfg v s).ssp = s.ssp := by simp [writeMseccfg]
@[simp] theorem writeMseccfg_menvcfg (v : Word) (s : State) : (writeMseccfg v s).menvcfg = s.menvcfg := by simp [writeMseccfg]
@[simp] theorem writeMseccfg_henvcfg (v : Word) (s : State) : (writeMseccfg v s).henvcfg = s.henvcfg := by simp [writeMseccfg]
@[simp] theorem writeMseccfg_mstatus (v : Word) (s : State) : (writeMseccfg v s).mstatus = s.mstatus := by simp [writeMseccfg]
@[simp] theorem writeMseccfg_vsstatus (v : Word) (s : State) : (writeMseccfg v s).vsstatus = s.vsstatus := by simp [writeMseccfg]
@[simp] theorem writeMseccfg_dcsr (v : Word) (s : State) : (writeMseccfg v s).dcsr = s.dcsr := by simp [writeMseccfg]
@[simp] theorem writeMseccfg_mem (v : Word) (s : State) : (writeMseccfg v s).mem = s.mem := by simp [writeMseccfg]
@[simp] theorem writeMseccfg_draws (v : Word) (s : State) : (writeMseccfg v s).draws = s.draws := by simp [writeMseccfg]

/-! `writeDcsr` -/

@[simp] theorem writeDcsr_priv (v : Word) (s : State) : (writeDcsr v s).priv = s.priv := rfl
@[simp] theorem writeDcsr_virt (v : Word) (s : State) : (writeDcsr v s).virt = s.virt := rfl
@[simp] theorem writeDcsr_pc (v : Word) (s : State) : (writeDcsr v s).pc = s.pc := rfl
@[simp] theorem writeDcsr_regs (v : Word) (s : State) : (writeDcsr v s).regs = s.regs := rfl
@[simp] theorem writeDcsr_elp (v : Word) (s : State) : (writeDcsr v s).elp = s.elp := rfl
@[simp] theorem writeDcsr_ssp (v : Word) (s : State) : (writeDcsr v s).ssp = s.ssp := rfl
@[simp] theorem writeDcsr_menvcfg (v : Word) (s : State) : (writeDcsr v s).menvcfg = s.menvcfg := rfl
@[simp] theorem writeDcsr_henvcfg (v : Word) (s : State) : (writeDcsr v s).henvcfg = s.henvcfg := rfl
@[simp] theorem writeDcsr_mstatus (v : Word) (s : State) : (writeDcsr v s).mstatus = s.mstatus := rfl
@[simp] theorem writeDcsr_vsstatus (v : Word) (s : State) : (writeDcsr v s).vsstatus = s.vsstatus := rfl
@[simp] theorem writeDcsr_mseccfg (v : Word) (s : State) : (writeDcsr v s).mseccfg = s.mseccfg := rfl
@[simp] theorem writeDcsr_sspmp (v : Word) (s : State) : (writeDcsr v s).sspmp = s.sspmp := rfl
@[simp] theorem writeDcsr_mem (v : Word) (s : State) : (writeDcsr v s).mem = s.mem := rfl
@[simp] theorem writeDcsr_draws (v : Word) (s : State) : (writeDcsr v s).draws = s.draws := rfl

/-! `csrWrite` -/

@[simp] theorem csrWrite_priv (c : Csr) (v : Word) (s : State) : (csrWrite c v s).priv = s.priv := by cases c <;> simp [csrWrite]
@[simp] theorem csrWrite_virt (c : Csr) (v : Word) (s : State) : (csrWrite c v s).virt = s.virt := by cases c <;> simp [csrWrite]
@[simp] theorem csrWrite_pc (c : Csr) (v : Word) (s : State) : (csrWrite c v s).pc = s.pc := by cases c <;> simp [csrWrite]
@[simp] theorem csrWrite_regs (c : Csr) (v : Word) (s : State) : (csrWrite c v s).regs = s.regs := by cases c <;> simp [csrWrite]
@[simp] theorem csrWrite_mem (c : Csr) (v : Word) (s : State) : (csrWrite c v s).mem = s.mem := by cases c <;> simp [csrWrite]

/-! `csrWriteIf` -/

@[simp] theorem csrWriteIf_priv (b : Bool) (c : Csr) (v : Word) (s : State) : (csrWriteIf b c v s).priv = s.priv := by cases b <;> simp [csrWriteIf]
@[simp] theorem csrWriteIf_virt (b : Bool) (c : Csr) (v : Word) (s : State) : (csrWriteIf b c v s).virt = s.virt := by cases b <;> simp [csrWriteIf]
@[simp] theorem csrWriteIf_pc (b : Bool) (c : Csr) (v : Word) (s : State) : (csrWriteIf b c v s).pc = s.pc := by cases b <;> simp [csrWriteIf]
@[simp] theorem csrWriteIf_regs (b : Bool) (c : Csr) (v : Word) (s : State) : (csrWriteIf b c v s).regs = s.regs := by cases b <;> simp [csrWriteIf]
@[simp] theorem csrWriteIf_mem (b : Bool) (c : Csr) (v : Word) (s : State) : (csrWriteIf b c v s).mem = s.mem := by cases b <;> simp [csrWriteIf]

end Sys2Proof.Machine
end

