-- ==== Sys2Proof/Laws/Csr.lean ====
section
/-! SUPPORT. The CSR operations: when the access check passes, and what a read and a write do to each bit. -/

namespace Sys2Proof.Machine

/-! ### CSR numbers and the access check, under any configuration -/

/-- A number that names a CSR is that CSR's number (R21). -/
theorem csrTargetIn_present {P : Config.Params} {a : CsrNum} {c : Csr} (h : csrTargetIn P a = .present c) :
    a = csrNumIn P c := by
  unfold csrTargetIn at h
  repeat' split at h
  all_goals first | (cases h; assumption) | cases h

/-- Where the eight numbers are distinct, each names its CSR (R21). -/
theorem csrTargetIn_csrNumIn {P : Config.Params} (hd : distinctNums P) (c : Csr) :
    csrTargetIn P (csrNumIn P c) = .present c := by
  have hne : ∀ d, d ≠ c → ¬ csrNumIn P c = csrNumIn P d := fun d h e => h (hd _ _ e).symm
  unfold csrTargetIn
  cases c <;> simp only [if_true, hne, ne_eq, reduceCtorEq, not_false_eq_true, if_false]

/-- The gate of `ssp` is open exactly in M-mode and where Zicfiss is active (R65, R170). -/
theorem sspPasses_iff (s : State) : sspPasses s = true ↔ s.priv = .M ∨ ssActive s.priv s.virt s = some true := by
  unfold sspPasses
  split
  · rename_i h
    have : s.priv = .M := by
      unfold ssActive at h
      split at h <;> simp_all
    simp [this]
  · rename_i b h
    have : s.priv ≠ .M := by
      intro hm
      rw [hm] at h
      simp [ssActive] at h
    simp [h, this]

/-- What an access check that passes says: the number is the CSR's, the mode may access it (R162; not asked at `ssp`), and for
`ssp` the gate of R170 is open. -/
theorem csrAccessIn_ok {P : Config.Params} {a : CsrNum} {s : State} {c : Csr} (h : csrAccessIn P a s = .ok c) :
    a = csrNumIn P c ∧ (c ≠ .ssp → P.csrPrivOk c s.priv s.virt = .ok) ∧ (c = .ssp → sspPasses s = true) := by
  unfold csrAccessIn at h
  split at h
  · cases h
  · cases h
  · rename_i ht
    split at h
    · rename_i hs
      cases h
      exact ⟨csrTargetIn_present ht, fun hn => absurd rfl hn, fun _ => hs⟩
    · cases h
  · rename_i d hd ht
    split at h
    · rename_i hp
      cases h
      exact ⟨csrTargetIn_present ht, fun _ => hp, fun hc => absurd hc (hd)⟩
    · cases h
    · cases h

/-- Everything a CSR instruction can do when it completes (R160, R161). -/
theorem csrInstructionIn_next_iff (P : Config.Params) (w : IWord) (a : CsrNum) (rd : Reg) (reads writes : Bool)
    (f : Word → Word) (s t : State) :
    csrInstructionIn P w a rd reads writes f s = .next t ↔
      ∃ c, csrAccessIn P a s = .ok c ∧ s.pc.toNat + 4 < memTop ∧
        t = { setXIf reads rd (csrRead c s) (csrWriteIf writes c (f (csrRead c s)) s) with pc := s.pc + 4#64 } := by
  unfold csrInstructionIn
  split
  · rename_i h; simp [h]
  · rename_i h; simp [h, raiseIllegalInstruction]
  · rename_i c h
    simp only [h, advance, setXIf_pc, csrWriteIf_pc, CsrAccess.ok.injEq, exists_eq_left']
    split
    · rename_i hp
      simp [hp, eq_comm]
    · rename_i hp
      simp [hp]

/-- A CSR instruction faults only by the check, and then with the illegal-instruction exception (R180, R234). -/
theorem csrInstructionIn_fault_iff (P : Config.Params) (w : IWord) (a : CsrNum) (rd : Reg) (reads writes : Bool)
    (f : Word → Word) (s : State) (e : Fault) :
    csrInstructionIn P w a rd reads writes f s = .fault e ↔
      csrAccessIn P a s = .illegal ∧ e = .illegalInstruction illegalInsnCode (Config.illegalTval w) s.pc := by
  unfold csrInstructionIn
  split
  · rename_i h; simp [h]
  · rename_i h; simp [h, raiseIllegalInstruction, eq_comm]
  · rename_i c h
    simp only [h, advance, setXIf_pc, csrWriteIf_pc]
    split <;> simp

/-! ### The same at the defaults -/

@[simp] theorem csrNumIn_defaultParams (c : Csr) : csrNumIn defaultParams c = csrAddr c := by cases c <;> rfl

/-- The eight default numbers are distinct (D3). -/
theorem distinctNums_defaultParams : distinctNums defaultParams := by
  intro c d
  cases c <;> cases d <;> decide

@[simp] theorem csrTarget_csrAddr (c : Csr) : csrTarget (csrAddr c) = .present c := by
  rw [← csrNumIn_defaultParams]
  exact csrTargetIn_csrNumIn distinctNums_defaultParams c

theorem csrTarget_present {a : CsrNum} {c : Csr} (h : csrTarget a = .present c) : a = csrAddr c := by
  rw [← csrNumIn_defaultParams]
  exact csrTargetIn_present h

theorem csrAddr_injective {c d : Csr} (h : csrAddr c = csrAddr d) : c = d := by
  have := congrArg csrTarget h
  simpa using this

/-- The access check passes exactly when the number names the CSR, the table of R162 says ok, and for `ssp` the gate of R170
is open. -/
theorem csrAccess_ok_iff (a : CsrNum) (s : State) (c : Csr) :
    csrAccess a s = .ok c ↔
      a = csrAddr c ∧ csrPrivOk c s.priv s.virt = .ok ∧ (c = .ssp → sspPasses s = true) := by
  constructor
  · intro h
    obtain ⟨ha, hp, hs⟩ := csrAccessIn_ok h
    refine ⟨ha.trans (csrNumIn_defaultParams c), ?_, hs⟩
    by_cases hc : c = .ssp
    · subst hc; rfl
    · exact hp hc
  · rintro ⟨rfl, hp, hs⟩
    have ht : csrTargetIn defaultParams (csrAddr c) = .present c := csrTarget_csrAddr c
    unfold csrAccess csrAccessIn
    rw [ht]
    cases c <;> simp_all [defaultParams]

/-- Everything a CSR instruction can do when it completes (R160, R161). -/
theorem csrInstruction_next_iff (w : IWord) (a : CsrNum) (rd : Reg) (reads writes : Bool) (f : Word → Word) (s t : State) :
    csrInstruction w a rd reads writes f s = .next t ↔
      ∃ c, csrAccess a s = .ok c ∧ s.pc.toNat + 4 < memTop ∧
        t = { setXIf reads rd (csrRead c s) (csrWriteIf writes c (f (csrRead c s)) s) with pc := s.pc + 4#64 } :=
  csrInstructionIn_next_iff ..

/-- A CSR instruction faults only by the check, and then with the illegal-instruction exception (R180, R234). -/
theorem csrInstruction_fault_iff (w : IWord) (a : CsrNum) (rd : Reg) (reads writes : Bool) (f : Word → Word) (s : State)
    (e : Fault) :
    csrInstruction w a rd reads writes f s = .fault e ↔
      csrAccess a s = .illegal ∧ e = .illegalInstruction illegalInsnCode (Config.illegalTval w) s.pc :=
  csrInstructionIn_fault_iff ..

/-! ### Bits of a write -/

/-- Each bit of a register after a write: legalised where the source only draws the field, written where the mask of CFI
bits says so, unchanged elsewhere. -/
theorem getLsbD_writeFields (old cfi v drawn legal : Word) (i : Nat) :
    (writeFields old cfi v drawn legal).getLsbD i =
      if drawn.getLsbD i then legal.getLsbD i else if cfi.getLsbD i then v.getLsbD i else old.getLsbD i := by
  simp [writeFields]

theorem getLsbD_gatedMask (l : Layout) (i j : Nat) (gate : Bool) (h : j < 64) :
    (gatedMask l i gate).getLsbD j = ((cfiMask l).getLsbD j && (gate || decide (i ≠ j))) := by
  cases gate
  · simp only [gatedMask, Bool.false_eq_true, if_false, BitVec.getLsbD_and, BitVec.getLsbD_not, getLsbD_bitMask, h,
      decide_true, Bool.true_and, Bool.false_or, decide_not]
  · simp [gatedMask]

theorem storeMenvcfg_bit (v : Word) (s : State) (i : Nat) :
    (storeMenvcfg v s).menvcfg.getLsbD i =
      if (drawnMask menvcfgLayout).getLsbD i then (Config.legalizeOther .menvcfg (readMenvcfg s) v).getLsbD i
      else if (cfiMask menvcfgLayout).getLsbD i then v.getLsbD i else s.menvcfg.getLsbD i := by
  simp [storeMenvcfg, getLsbD_writeFields]

@[simp] theorem writeMenvcfg_menvcfg (v : Word) (s : State) :
    (writeMenvcfg v s).menvcfg = (storeMenvcfg v s).menvcfg := by
  unfold writeMenvcfg; split <;> rfl

@[simp] theorem writeHenvcfg_henvcfg (v : Word) (s : State) :
    (writeHenvcfg v s).henvcfg = (storeHenvcfg v s).henvcfg := by
  unfold writeHenvcfg; split <;> rfl

@[simp] theorem writeMseccfg_sspmp (v : Word) (s : State) : (writeMseccfg v s).sspmp = (storeMseccfg v s).sspmp := by
  simp [writeMseccfg]

@[simp] theorem writeMseccfg_mseccfg (v : Word) (s : State) :
    (writeMseccfg v s).mseccfg = (storeMseccfg v s).mseccfg := by
  simp [writeMseccfg]

theorem storeHenvcfg_bit (v : Word) (s : State) (i : Nat) :
    (storeHenvcfg v s).henvcfg.getLsbD i =
      if (drawnMask henvcfgLayout).getLsbD i then (Config.legalizeOther .henvcfg (readHenvcfg s) v).getLsbD i
      else if (gatedMask henvcfgLayout 60 (menvcfgSBCFIE s)).getLsbD i then v.getLsbD i else s.henvcfg.getLsbD i := by
  simp [storeHenvcfg, getLsbD_writeFields]

theorem writeMstatus_bit (v : Word) (s : State) (i : Nat) :
    (writeMstatus v s).mstatus.getLsbD i =
      if (drawnMask mstatusLayout).getLsbD i then (Config.legalizeOther .mstatus (readMstatus s) v).getLsbD i
      else if (gatedMask mstatusLayout 24 (menvcfgSBCFIE s)).getLsbD i then v.getLsbD i else s.mstatus.getLsbD i := by
  simp [writeMstatus, getLsbD_writeFields]

theorem writeVsstatus_bit (v : Word) (s : State) (i : Nat) :
    (writeVsstatus v s).vsstatus.getLsbD i =
      if (drawnMask vsstatusLayout).getLsbD i then (Config.legalizeOther .vsstatus (readVsstatus s) v).getLsbD i
      else if (gatedMask vsstatusLayout 24 (henvcfgSBCFIE s)).getLsbD i then v.getLsbD i else s.vsstatus.getLsbD i := by
  simp [writeVsstatus, getLsbD_writeFields]

theorem writeSstatus_mstatus_bit (v : Word) (s : State) (i : Nat) :
    (writeSstatus v s).mstatus.getLsbD i =
      if s.virt then s.mstatus.getLsbD i
      else if (drawnMask sstatusLayout).getLsbD i then (Config.legalizeOther .sstatus (readSstatus s) v).getLsbD i
      else if (gatedMask sstatusLayout 24 (menvcfgSBCFIE s)).getLsbD i then v.getLsbD i else s.mstatus.getLsbD i := by
  unfold writeSstatus; split <;> simp [getLsbD_writeFields, *]

theorem writeSstatus_vsstatus_bit (v : Word) (s : State) (i : Nat) :
    (writeSstatus v s).vsstatus.getLsbD i =
      if s.virt = false then s.vsstatus.getLsbD i
      else if (drawnMask sstatusLayout).getLsbD i then (Config.legalizeOther .sstatus (readSstatus s) v).getLsbD i
      else if (gatedMask sstatusLayout 24 (henvcfgSBCFIE s)).getLsbD i then v.getLsbD i else s.vsstatus.getLsbD i := by
  unfold writeSstatus; split <;> simp [getLsbD_writeFields, *]

theorem storeMseccfg_bit (v : Word) (s : State) (i : Nat) :
    (storeMseccfg v s).mseccfg.getLsbD i =
      if (drawnMask mseccfgLayout).getLsbD i then (Config.legalizeOther .mseccfg (readMseccfg s) v).getLsbD i
      else if (cfiMask mseccfgLayout &&& ~~~sspmpMask).getLsbD i then v.getLsbD i else s.mseccfg.getLsbD i := by
  unfold storeMseccfg
  exact getLsbD_writeFields ..

@[simp] theorem storeMseccfg_sspmp (v : Word) (s : State) :
    (storeMseccfg v s).sspmp = legalSspmp (mseccfgSSPMP s) (v.extractLsb' 11 6) := rfl

/-- What a write leaves in SSPMP is always legal (R58, R169). -/
theorem sspmpLegal_legalSspmp (old w : BitVec 6) : Config.sspmpLegal (legalSspmp old w) = true := by
  unfold legalSspmp
  split
  · assumption
  · unfold Config.sspmpLegalize
    split
    · assumption
    · simp [Config.sspmpLegal]

/-! ### Bits of a read -/

theorem readMenvcfg_bit (s : State) (i : Nat) :
    (readMenvcfg s).getLsbD i = (s.menvcfg.getLsbD i && (readMask menvcfgLayout).getLsbD i) := by
  simp [readMenvcfg]

theorem readHenvcfg_bit (s : State) (i : Nat) :
    (readHenvcfg s).getLsbD i =
      if i = 60 then henvcfgSBCFIE s else (s.henvcfg.getLsbD i && (readMask henvcfgLayout).getLsbD i) := by
  simp [readHenvcfg, getLsbD_putBit]

theorem readMstatus_bit (s : State) (i : Nat) :
    (readMstatus s).getLsbD i =
      if i = 24 then mstatusUBCFIE s else (s.mstatus.getLsbD i && (readMask mstatusLayout).getLsbD i) := by
  simp [readMstatus, getLsbD_putBit]

theorem readVsstatus_bit (s : State) (i : Nat) :
    (readVsstatus s).getLsbD i =
      if i = 24 then vsstatusUBCFIE s else (s.vsstatus.getLsbD i && (readMask vsstatusLayout).getLsbD i) := by
  simp [readVsstatus, getLsbD_putBit]

theorem readSstatus_bit (s : State) (i : Nat) :
    (readSstatus s).getLsbD i =
      if s.virt then
        (if i = 24 then vsstatusUBCFIE s else (s.vsstatus.getLsbD i && (readMask sstatusLayout).getLsbD i))
      else (if i = 24 then mstatusUBCFIE s else (s.mstatus.getLsbD i && (readMask sstatusLayout).getLsbD i)) := by
  unfold readSstatus; split <;> simp [getLsbD_putBit]

theorem placeSspmp_bit (v : BitVec 6) (i : Nat) :
    (placeSspmp v).getLsbD i = if 11 ≤ i ∧ i ≤ 16 then v.getLsbD (i - 11) else false := by
  by_cases h : i < 64
  · simp only [placeSspmp, BitVec.getLsbD_cast, BitVec.getLsbD_append]
    interval_cases i <;> simp
  · simp [BitVec.getLsbD_of_ge _ _ (Nat.le_of_not_lt h), show ¬ i ≤ 16 by omega]

theorem readMseccfg_bit (s : State) (i : Nat) :
    (readMseccfg s).getLsbD i =
      if sspmpMask.getLsbD i then (placeSspmp s.sspmp).getLsbD i
      else (s.mseccfg.getLsbD i && (readMask mseccfgLayout).getLsbD i) := by
  simp [readMseccfg, mseccfgSSPMP]

end Sys2Proof.Machine
end

