-- ==== Sys2Proof/Laws/Memory.lean ====
section
/-! SUPPORT. Memory: a read after a write, and every operation keeps the canonical form (20_memory.md R100). -/

namespace Sys2Proof.Machine

theorem wfFrom_cons (lo a : Nat) (v : Byte) (m : Memory) :
    Memory.wfFrom lo ((a, v) :: m) = true ↔ lo ≤ a ∧ a < memTop ∧ Memory.wfFrom (a + 1) m = true := by
  simp [Memory.wfFrom, and_assoc]

theorem wfFrom_weaken {lo lo' : Nat} (h : lo' ≤ lo) (m : Memory) (hm : Memory.wfFrom lo m = true) :
    Memory.wfFrom lo' m = true := by
  cases m with
  | nil => rfl
  | cons c m =>
    obtain ⟨a, v⟩ := c
    rw [wfFrom_cons] at *
    exact ⟨h.trans hm.1, hm.2⟩

theorem wfFrom_insert (m : Memory) (lo a : Nat) (v : Byte) (hlo : lo ≤ a) (ha : a < memTop)
    (hm : Memory.wfFrom lo m = true) : Memory.wfFrom lo (m.insert a v) = true := by
  induction m generalizing lo with
  | nil => simp [Memory.insert, Memory.wfFrom, hlo, ha]
  | cons c m ih =>
    obtain ⟨b, u⟩ := c
    rw [wfFrom_cons] at hm
    unfold Memory.insert
    split
    · rename_i h
      rw [wfFrom_cons, wfFrom_cons]
      exact ⟨hlo, ha, h, hm.2⟩
    · split
      · rename_i h
        subst h
        rw [wfFrom_cons]
        exact ⟨hlo, ha, hm.2.2⟩
      · rw [wfFrom_cons]
        exact ⟨hm.1, hm.2.1, ih (b + 1) (by omega) hm.2.2⟩

/-- A write of one byte keeps the canonical form. -/
theorem wf_write (m : Memory) (a : Nat) (v : Byte) (hm : m.wf = true) : (m.write a v).wf = true := by
  unfold Memory.write Memory.wf
  split
  · exact wfFrom_insert m 0 a v (Nat.zero_le a) ‹_› hm
  · exact hm

/-- A write of several bytes keeps the canonical form. -/
theorem wf_writeLE (n : Nat) (m : Memory) (a : Word) (v : Nat) (hm : m.wf = true) : (m.writeLE a n v).wf = true := by
  induction n generalizing m a v with
  | zero => exact hm
  | succ n ih => exact ih _ _ _ (wf_write m a.toNat _ hm)

/-- The shared operation on the hart's memory keeps the canonical form. -/
theorem wf_memWrite (addr : Word) (n v : Nat) (s : State) (hm : s.mem.wf = true) : (memWrite addr n v s).mem.wf = true :=
  wf_writeLE n s.mem addr v hm

theorem find_insert (m : Memory) (a b : Nat) (v : Byte) :
    (m.insert a v).find b = if b = a then some v else m.find b := by
  induction m with
  | nil => simp [Memory.insert, Memory.find]
  | cons c m ih =>
    obtain ⟨d, u⟩ := c
    unfold Memory.insert
    split
    · simp [Memory.find]
    · split
      · rename_i h
        subst h
        by_cases hb : b = a <;> simp [Memory.find, hb]
      · rename_i h1 h2
        simp only [Memory.find, ih]
        by_cases hb : b = d
        · have hne : ¬ d = a := fun h => h2 h.symm
          simp [hb, hne]
        · simp [hb]

/-- One byte read after one byte written (R100). -/
theorem read_write (m : Memory) (a b : Nat) (v : Byte) :
    (m.write a v).read b = if b = a ∧ a < memTop then some v else m.read b := by
  unfold Memory.write Memory.read
  by_cases ha : a < memTop
  · by_cases hb : b = a
    · simp [ha, hb, find_insert]
    · simp [ha, hb, find_insert]
  · simp [ha]

/-- The byte after address `a` stands one step nearer to every other address (R6). -/
theorem distance_succ (a b : Word) (h : b ≠ a) : (b - a).toNat = (b - (a + 1#64)).toNat + 1 := by
  bv_omega

/-- One byte read after several written: a byte fewer than `n` steps above `a`, counted modulo 2^64, is a little-endian byte of
`v`, all others are as before (R6, R100, R103). -/
theorem read_writeLE (n : Nat) (m : Memory) (a : Word) (v : Nat) (b : Word) (hn : n ≤ memTop) :
    (m.writeLE a n v).read b.toNat =
      if (b - a).toNat < n then some (BitVec.ofNat 8 (v / 256 ^ (b - a).toNat)) else m.read b.toNat := by
  induction n generalizing m a v with
  | zero => simp [Memory.writeLE]
  | succ n ih =>
    rw [Memory.writeLE, ih _ _ _ (by omega), read_write]
    by_cases hb : b = a
    · subst hb
      have hd : (b - (b + 1#64)).toNat = memTop - 1 := by unfold memTop; bv_omega
      have hlt : b.toNat < memTop := b.isLt
      rw [if_neg (by omega), if_pos ⟨rfl, hlt⟩, if_pos (by simp)]
      simp
    · have hs := distance_succ a b hb
      have hne : ¬ (b.toNat = a.toNat ∧ a.toNat < memTop) := fun h => hb (BitVec.eq_of_toNat_eq h.1)
      rw [if_neg hne, hs]
      by_cases h1 : (b - (a + 1#64)).toNat < n
      · rw [if_pos h1, if_pos (by omega), Nat.pow_succ', Nat.div_div_eq_div_mul]
      · rw [if_neg h1, if_neg (by omega)]

/-- The window of bytes at `a`, where every one of the `l.length` bytes reads as the list says. -/
theorem window_of_reads (m : Memory) (l : List Byte) (a : Word) (n : Nat)
    (h : ∀ k (hk : k < l.length), m.read (a + BitVec.ofNat 64 k).toNat = some l[k]) (hn : l.length ≤ n) :
    ∃ rest, m.window a n = l ++ rest := by
  induction l generalizing a n with
  | nil => exact ⟨m.window a n, rfl⟩
  | cons b l ih =>
    cases n with
    | zero => simp at hn
    | succ n =>
      have h0 := h 0 (by simp)
      simp only [BitVec.add_zero, List.getElem_cons_zero] at h0
      have hs : ∀ k (hk : k < l.length), m.read (a + 1#64 + BitVec.ofNat 64 k).toNat = some l[k] := by
        intro k hk
        have := h (k + 1) (by simpa using hk)
        rw [List.getElem_cons_succ] at this
        rw [← this, BitVec.add_assoc, Nat.add_comm k 1, BitVec.ofNat_add]
      obtain ⟨rest, hr⟩ := ih (a + 1#64) n hs (by simpa using hn)
      exact ⟨rest, by simp [Memory.window, h0, hr]⟩

end Sys2Proof.Machine
end

