-- ==== Sys2Proof/Laws/Exec.lean ====
section
/-! SUPPORT. Everything the shared operations, `exec` and `step` can do. -/

namespace Sys2Proof.Machine

/-- The advance of the pc completes exactly when the next pc is below 2^64 (R23). -/
theorem advance_next_iff (n : Nat) (s t : State) :
    advance n s = .next t ↔ s.pc.toNat + n < memTop ∧ t = { s with pc := s.pc + BitVec.ofNat 64 n } := by
  unfold advance
  split
  · rename_i h; simp [h, eq_comm]
  · rename_i h; simp [h]

/-- The advance of the pc never faults. -/
theorem advance_not_fault (n : Nat) (s : State) (e : Fault) : advance n s ≠ .fault e := by
  unfold advance; split <;> simp

/-- A MOP word completes only by its plain behaviour (R190). -/
theorem zicfissDispatch_next_iff (m : Bool) (p : Host.Outcome State Fault Refusal) (s t : State) :
    zicfissDispatch m p s = .next t ↔ p = .next t ∧ (m = true → ssActive s.priv s.virt s = some false) := by
  unfold zicfissDispatch
  cases m
  · simp
  · simp only [if_true]
    split <;> simp_all

/-- A MOP word faults only as its plain behaviour does. -/
theorem zicfissDispatch_fault (m : Bool) (p : Host.Outcome State Fault Refusal) (s : State) (e : Fault)
    (h : zicfissDispatch m p s = .fault e) : p = .fault e := by
  unfold zicfissDispatch at h
  split at h
  · split at h
    · cases h
    · cases h
    · exact h
  · exact h

/-- Where Zicfiss is not active in a mode less than M, a MOP word has its plain behaviour, Zicfiss instruction or not (R191,
R192). -/
theorem zicfissDispatch_inactive (m : Bool) (p : Host.Outcome State Fault Refusal) (s : State)
    (h : ssActive s.priv s.virt s = some false) : zicfissDispatch m p s = p := by
  unfold zicfissDispatch
  rw [h]
  cases m <;> rfl

/-- The machine of `exec` is the one under the default configuration (R4). -/
theorem exec_eq_execIn (i : Instr) (s : State) : exec i s = execIn defaultParams i s := by cases i <;> rfl

/-- The machine of `step` is the one under the default configuration (R4). -/
theorem step_eq_stepIn (s : State) : step s = stepIn defaultParams s := by
  unfold step stepIn fetchDecode
  simp only [exec_eq_execIn]
  rfl

/-- What a completed instruction leaves, under any configuration: a CSR access whose check passed, or a plain MOP, or a
no-op. -/
def nextForm (P : Config.Params) (i : Instr) (s t : State) : Prop :=
  (∃ (c : Csr) (rd : Reg) (reads writes : Bool) (v : Word), csrNumOf i = some (csrNumIn P c) ∧ destOf i = some rd ∧
      csrAccessIn P (csrNumIn P c) s = .ok c ∧
      t = { setXIf reads rd (csrRead c s) (csrWriteIf writes c v s) with pc := s.pc + BitVec.ofNat 64 i.size }) ∨
    (∃ rd : Reg, csrNumOf i = none ∧ destOf i = some rd ∧
      t = { s.setX rd 0#64 with pc := s.pc + BitVec.ofNat 64 i.size }) ∨
    (csrNumOf i = none ∧ destOf i = none ∧ t = { s with pc := s.pc + BitVec.ofNat 64 i.size })

/-- A CSR instruction that completes, in the form of `nextForm`. -/
theorem csrInstructionIn_nextForm {P : Config.Params} {i : Instr} {w : IWord} {a : CsrNum} {rd : Reg} {reads writes : Bool}
    {f : Word → Word} {s t : State} (hn : csrNumOf i = some a) (hd : destOf i = some rd) (hz : i.size = 4)
    (h : csrInstructionIn P w a rd reads writes f s = .next t) : s.pc.toNat + i.size < memTop ∧ nextForm P i s t := by
  obtain ⟨c, hc, hp, ht⟩ := (csrInstructionIn_next_iff ..).mp h
  obtain ⟨ha, -, -⟩ := csrAccessIn_ok hc
  subst ha
  unfold nextForm
  rw [hz]
  exact ⟨hp, .inl ⟨c, rd, reads, writes, _, hn, hd, hc, ht⟩⟩

/-- Every next state of `execIn`. -/
theorem execIn_next_cases {P : Config.Params} {i : Instr} {s t : State} (h : execIn P i s = .next t) :
    s.pc.toNat + i.size < memTop ∧ nextForm P i s t := by
  cases i with
  | csrrw rd a r =>
    simp only [execIn, csrrwIn] at h
    exact csrInstructionIn_nextForm rfl rfl rfl h
  | csrrs rd a r =>
    simp only [execIn, csrrsIn] at h
    exact csrInstructionIn_nextForm rfl rfl rfl h
  | csrrc rd a r =>
    simp only [execIn, csrrcIn] at h
    exact csrInstructionIn_nextForm rfl rfl rfl h
  | csrrwi rd a r =>
    simp only [execIn, csrrwiIn] at h
    exact csrInstructionIn_nextForm rfl rfl rfl h
  | csrrsi rd a r =>
    simp only [execIn, csrrsiIn] at h
    exact csrInstructionIn_nextForm rfl rfl rfl h
  | csrrci rd a r =>
    simp only [execIn, csrrciIn] at h
    exact csrInstructionIn_nextForm rfl rfl rfl h
  | mopRN n rd rs1 =>
    simp only [execIn, execMopRN, zimopBehaviour] at h
    obtain ⟨hp, ht⟩ := (advance_next_iff ..).mp ((zicfissDispatch_next_iff ..).mp h).1
    simp only [setX_pc] at hp ht
    exact ⟨hp, .inr (.inl ⟨rd, rfl, rfl, ht⟩)⟩
  | mopRRN n rd rs1 rs2 =>
    simp only [execIn, execMopRRN, zimopBehaviour] at h
    obtain ⟨hp, ht⟩ := (advance_next_iff ..).mp ((zicfissDispatch_next_iff ..).mp h).1
    simp only [setX_pc] at hp ht
    exact ⟨hp, .inr (.inl ⟨rd, rfl, rfl, ht⟩)⟩
  | cmopN n =>
    simp only [execIn, execCmopN, zcmopBehaviour] at h
    obtain ⟨hp, ht⟩ := (advance_next_iff ..).mp ((zicfissDispatch_next_iff ..).mp h).1
    exact ⟨hp, .inr (.inr ⟨rfl, rfl, ht⟩)⟩
  | lpad l =>
    simp only [execIn, execLpad] at h
    split at h
    · cases h
    · obtain ⟨hp, ht⟩ := (advance_next_iff ..).mp h
      exact ⟨hp, .inr (.inr ⟨rfl, rfl, ht⟩)⟩

/-- Every next state of `exec`. -/
theorem exec_next_cases {i : Instr} {s t : State} (h : exec i s = .next t) :
    s.pc.toNat + i.size < memTop ∧
    ((∃ (c : Csr) (rd : Reg) (reads writes : Bool) (v : Word), csrNumOf i = some (csrAddr c) ∧ destOf i = some rd ∧
        csrAccess (csrAddr c) s = .ok c ∧
        t = { setXIf reads rd (csrRead c s) (csrWriteIf writes c v s) with pc := s.pc + BitVec.ofNat 64 i.size }) ∨
      (∃ rd : Reg, csrNumOf i = none ∧ destOf i = some rd ∧
        t = { s.setX rd 0#64 with pc := s.pc + BitVec.ofNat 64 i.size }) ∨
      (csrNumOf i = none ∧ destOf i = none ∧ t = { s with pc := s.pc + BitVec.ofNat 64 i.size })) := by
  have := execIn_next_cases (exec_eq_execIn i s ▸ h)
  simpa only [nextForm, csrNumIn_defaultParams, csrAccess] using this

/-- A step that answers a next state began with NO_LP_EXPECTED, fetched an instruction, and is that instruction's meaning. -/
theorem step_next_iff (s t : State) :
    step s = .next t ↔ s.elp = .noLpExpected ∧ ∃ i, fetchDecode s = .ok i ∧ exec i s = .next t := by
  unfold step elpPrecondition
  cases hs : s.elp
  · simp only [true_and]
    cases hf : fetchDecode s with
    | ok i => simp
    | error e => cases e <;> simp [decodeStop]
  · simp

/-- The same under any configuration. -/
theorem stepIn_next_iff (P : Config.Params) (s t : State) :
    stepIn P s = .next t ↔ s.elp = .noLpExpected ∧ ∃ i, fetchDecodeIn P.lpad s = .ok i ∧ execIn P i s = .next t := by
  unfold stepIn elpPrecondition
  cases hs : s.elp
  · simp only [true_and]
    cases hf : fetchDecodeIn P.lpad s with
    | ok i => simp
    | error e => cases e <;> simp [decodeStop]
  · simp

end Sys2Proof.Machine
end

