-- ==== Sys2Proof/Laws/PerInstr.lean ====
section
/-! SUPPORT. Statements about every instruction as syntax, one lemma per constructor. -/

namespace Sys2Proof.Laws

/-- The length rule (30_encoding.md R130) holds of the instruction's encoding: it has `size` bytes, its first parcel says
whether it is longer than 16 bits, and never announces 48 bits or more. -/
def LengthRule.Statement (i : Instr) : Prop :=
  (encodeBytes i).length = i.size ∧
  ∀ h ∈ (encode i).head?, isLong h = decide (i.size = 4) ∧ isTooLong h = false

theorem LengthRule.low_csrWord (a : CsrNum) (r : Reg) (f : BitVec 3) (rd : Reg) :
    ((csrWord a r f rd).extractLsb' 0 16).extractLsb' 0 5 = 0x13#5 := by
  ext i hi
  simp only [BitVec.getElem_extractLsb', BitVec.getLsbD_extractLsb', csrWord, BitVec.getLsbD_cast, BitVec.getLsbD_append,
    Nat.zero_add, show i < 16 by omega, show i < 7 by omega, decide_true, Bool.true_and, if_true]
  interval_cases i <;> simp

theorem LengthRule.of_low {w : IWord} {i : Instr} {v : BitVec 5} (hv : v.extractLsb' 0 2 = 3#2) (hne : v ≠ 31#5)
    (h : (w.extractLsb' 0 16).extractLsb' 0 5 = v) (hs : i.size = 4) (he : encode i = parcelsOf w) :
    LengthRule.Statement i := by
  refine ⟨by simp [encodeBytes, he, hs, parcelsOf, parcelBytes], ?_⟩
  intro p hp
  rw [he] at hp
  simp only [parcelsOf, List.head?_cons, Option.mem_def, Option.some.injEq] at hp
  subst hp
  have h2 : (w.extractLsb' 0 16).extractLsb' 0 2 = v.extractLsb' 0 2 := by
    rw [← h]
    ext i hi
    simp
  simp [isLong, isTooLong, h, h2, hv, hs, hne]

theorem LengthRule.csrrw (rd : Reg) (a : CsrNum) (r : Reg) : LengthRule.Statement (.csrrw rd a r) :=
  LengthRule.of_low rfl (by decide) (LengthRule.low_csrWord a r 1 rd) rfl rfl

theorem LengthRule.csrrs (rd : Reg) (a : CsrNum) (r : Reg) : LengthRule.Statement (.csrrs rd a r) :=
  LengthRule.of_low rfl (by decide) (LengthRule.low_csrWord a r 2 rd) rfl rfl

theorem LengthRule.csrrc (rd : Reg) (a : CsrNum) (r : Reg) : LengthRule.Statement (.csrrc rd a r) :=
  LengthRule.of_low rfl (by decide) (LengthRule.low_csrWord a r 3 rd) rfl rfl

theorem LengthRule.csrrwi (rd : Reg) (a : CsrNum) (u : BitVec 5) : LengthRule.Statement (.csrrwi rd a u) :=
  LengthRule.of_low rfl (by decide) (LengthRule.low_csrWord a u 5 rd) rfl rfl

theorem LengthRule.csrrsi (rd : Reg) (a : CsrNum) (u : BitVec 5) : LengthRule.Statement (.csrrsi rd a u) :=
  LengthRule.of_low rfl (by decide) (LengthRule.low_csrWord a u 6 rd) rfl rfl

theorem LengthRule.csrrci (rd : Reg) (a : CsrNum) (u : BitVec 5) : LengthRule.Statement (.csrrci rd a u) :=
  LengthRule.of_low rfl (by decide) (LengthRule.low_csrWord a u 7 rd) rfl rfl

theorem LengthRule.mopRN (n : BitVec 5) (rd rs1 : Reg) : LengthRule.Statement (.mopRN n rd rs1) := by
  refine LengthRule.of_low (v := 0x13#5) rfl (by decide) ?_ rfl rfl
  ext i hi
  simp only [BitVec.getElem_extractLsb', BitVec.getLsbD_extractLsb', mopRWord, BitVec.getLsbD_cast, BitVec.getLsbD_append,
    Nat.zero_add, show i < 16 by omega, show i < 7 by omega, decide_true, Bool.true_and, if_true]
  interval_cases i <;> simp

theorem LengthRule.mopRRN (n : BitVec 3) (rd rs1 rs2 : Reg) : LengthRule.Statement (.mopRRN n rd rs1 rs2) := by
  refine LengthRule.of_low (v := 0x13#5) rfl (by decide) ?_ rfl rfl
  ext i hi
  simp only [BitVec.getElem_extractLsb', BitVec.getLsbD_extractLsb', mopRRWord, BitVec.getLsbD_cast, BitVec.getLsbD_append,
    Nat.zero_add, show i < 16 by omega, show i < 7 by omega, decide_true, Bool.true_and, if_true]
  interval_cases i <;> simp

theorem LengthRule.low_cmopHalf (n : BitVec 4) (k : Nat) (hk : k ≤ 5) :
    (cmopHalf n).extractLsb' 0 k = (1#5).extractLsb' 0 k := by
  ext i hi
  simp only [BitVec.getElem_extractLsb', cmopHalf, BitVec.getLsbD_cast, BitVec.getLsbD_append, Nat.zero_add,
    show i < 8 by omega, if_true]
  interval_cases k <;> interval_cases i <;> rfl

theorem LengthRule.cmopN (n : BitVec 4) : LengthRule.Statement (.cmopN n) := by
  refine ⟨by simp [encodeBytes, encode, parcelBytes, Instr.size], ?_⟩
  intro h hh
  simp only [encode, List.head?_cons, Option.mem_def, Option.some.injEq] at hh
  subst hh
  rw [isLong, isTooLong, LengthRule.low_cmopHalf n 2 (by omega), LengthRule.low_cmopHalf n 5 (by omega)]
  exact ⟨rfl, rfl⟩

theorem LengthRule.lpad (l : BitVec 20) : LengthRule.Statement (.lpad l) := by
  refine LengthRule.of_low (v := 0x17#5) rfl (by decide) ?_ rfl rfl
  ext i hi
  simp only [BitVec.getElem_extractLsb', BitVec.getLsbD_extractLsb', lpadWord, BitVec.getLsbD_cast, BitVec.getLsbD_append,
    Nat.zero_add, show i < 16 by omega, show i < 7 by omega, decide_true, Bool.true_and, if_true]
  interval_cases i <;> simp

end Sys2Proof.Laws
end

