-- ==== Sys2Proof/Tests/Slice0.lean ====
section
/-! SUPPORT. The model's own tests: the smoke test of WellFormed, one word at least for every constructor's decoding, one step for
every instruction, and for every obligation with hypotheses a state and operands that meet them (`witness_<Name>`). Expected
results are those of spec/95_test_vectors.md unless a comment says "by hand". -/

namespace Sys2Proof.Tests

open Sys2Proof.Machine

/-! ### Helpers -/

/-- A hart in this mode at pc 0x1000 with every enable 0. -/
def hart (p : Priv) (v : Bool) : State := { State.reset with priv := p, virt := v, pc := 0x1000#64, sspmp := 0#6 }

/-- The stored Zicfiss bits of one row of the table 95 section 2.2. -/
def withRow (m h u w : Bool) (s : State) : State :=
  { s with
    menvcfg := putBit 60 m s.menvcfg
    henvcfg := putBit 60 h s.henvcfg
    mstatus := putBit 24 u s.mstatus
    vsstatus := putBit 24 w s.vsstatus }

/-- The outcome is a next state with this property. -/
def nextWith (o : Host.Outcome State Fault Refusal) (p : State → Bool) : Bool :=
  match o with
  | .next t => p t
  | .fault _ => false
  | .refused _ => false

/-- The outcome is a refusal for this reason. -/
def refusedFor (o : Host.Outcome State Fault Refusal) (r : Refusal) : Bool :=
  match o with
  | .next _ => false
  | .fault _ => false
  | .refused q => q == r

/-- The outcome is the illegal-instruction exception at this pc. -/
def illegalAt (o : Host.Outcome State Fault Refusal) (pc : Word) : Bool :=
  match o with
  | .next _ => false
  | .fault (.illegalInstruction c _ q) => c == 2 && q == pc
  | .fault (.fetchOutsideText _) => false
  | .refused _ => false

theorem exists_next {o : Host.Outcome State Fault Refusal} {p : State → Bool} (h : nextWith o p = true) :
    ∃ t, o = .next t := by
  cases o <;> simp_all [nextWith]

/-! ### WellFormed (R134): one check, `n` of c.mop.n is odd -/

theorem test_cmop_even_refused : Instr.wellFormed (.cmopN 4) = false := by decide
theorem test_cmop_zero_refused : Instr.wellFormed (.cmopN 0) = false := by decide
theorem test_cmop_odd_accepted : Instr.wellFormed (.cmopN 15) = true := by decide

/-! ### Decoding (95 section 2.1) -/

theorem test_decode_csrrw : decodeTableWord 32 0x011313F3 = some (.csrrw 7 0x011 6) := by decide
theorem test_decode_csrrs : decodeTableWord 32 0x30A2A073 = some (.csrrs 0 0x30A 5) := by decide
theorem test_decode_csrrc : decodeTableWord 32 0x7472B073 = some (.csrrc 0 0x747 5) := by decide
theorem test_decode_csrrwi : decodeTableWord 32 0x30AFD573 = some (.csrrwi 10 0x30A 31) := by decide
theorem test_decode_csrrsi : decodeTableWord 32 0x01106573 = some (.csrrsi 10 0x011 0) := by decide
theorem test_decode_csrrci : decodeTableWord 32 0x0113F573 = some (.csrrci 10 0x011 7) := by decide
theorem test_decode_mop_r_28 : decodeTableWord 32 0xCDC2C073 = some (.mopRN 28 0 5) := by decide
theorem test_decode_mop_r_31 : decodeTableWord 32 0xCDF342F3 = some (.mopRN 31 5 6) := by decide
theorem test_decode_mop_rr_0 : decodeTableWord 32 0x82C5C573 = some (.mopRRN 0 10 11 12) := by decide
theorem test_decode_mop_rr_7 : decodeTableWord 32 0xCE504073 = some (.mopRRN 7 0 0 5) := by decide
theorem test_decode_cmop_1 : decodeTableWord 16 0x6081 = some (.cmopN 1) := by decide
theorem test_decode_cmop_15 : decodeTableWord 16 0x6781 = some (.cmopN 15) := by decide
theorem test_decode_lpad : decodeTableWord 32 0xFFFFF017 = some (.lpad 0xFFFFF) := by decide
theorem test_decode_auipc_refused : decodeTableWord 32 0x00000517 = none := by decide
theorem test_decode_system_without_bit31_refused : decodeTableWord 32 0x00004073 = none := by decide
theorem test_decode_long_refused : decode [0x1F, 0x00, 0x00, 0x00] = .error .longEncoding := by rfl

/-! ### The figures against the prose (95 section 1.1) -/

theorem test_field_positions :
    [fieldAt menvcfgLayout .sfcfie, fieldAt menvcfgLayout .sbcfie, fieldAt henvcfgLayout .sfcfie,
      fieldAt henvcfgLayout .sbcfie] = [some (59, 1), some (60, 1), some (59, 1), some (60, 1)] ∧
    [fieldAt mstatusLayout .ufcfie, fieldAt mstatusLayout .ubcfie, fieldAt mstatusLayout .spelp,
      fieldAt mstatusLayout .mpelp] = [some (23, 1), some (24, 1), some (25, 1), some (26, 1)] ∧
    [fieldAt sstatusLayout .ufcfie, fieldAt sstatusLayout .ubcfie, fieldAt sstatusLayout .spelp,
      fieldAt sstatusLayout .mpelp] = [some (23, 1), some (24, 1), some (25, 1), none] ∧
    [fieldAt vsstatusLayout .ufcfie, fieldAt vsstatusLayout .ubcfie, fieldAt vsstatusLayout .spelp] =
      [some (23, 1), some (24, 1), some (25, 1)] ∧
    [fieldAt mseccfgLayout .mfcfie, fieldAt mseccfgLayout .sspmp, fieldAt dcsrLayout .pelp] =
      [some (10, 1), some (11, 6), some (18, 1)] := by decide

/-! ### One step of each instruction (95 sections 2.3 to 2.6) -/

/-- M-mode, `csrrw x6, ssp, x6`: a swap. -/
theorem test_csrrw_swaps :
    nextWith (step (({ hart .M false with ssp := 0xABCD#64 }.setX 6 0x1234#64).withFetchWord 32 0x01131373))
      (fun t => t.x 6 == 0xABCD#64 && t.ssp == 0x1234#64 && t.pc == 0x1004#64) = true := by decide

/-- M-mode, `csrrw x7, ssp, x6`: all 64 bits are stored. -/
theorem test_csrrw_all_bits :
    nextWith (step ((({ hart .M false with ssp := 0x10#64 }.setX 6 (-1)).setX 7 1#64).withFetchWord 32 0x011313F3))
      (fun t => t.x 7 == 0x10#64 && t.ssp == -1) = true := by decide

/-- Line 9 of 2.4: `csrrs x10, vsstatus, x0` reads bit 24 as 0 two gates deep. -/
theorem test_csrrs_vsstatus_gated :
    nextWith (step ({ withRow false true false true (hart .M false) with vsstatus := 0x1800000#64 }.withFetchWord 32
      0x20002573)) (fun t => t.x 10 == 0x800000#64) = true := by decide

/-- Line 12 of 2.4: in VS-mode `csrrs x10, sstatus, x0` reads `vsstatus`. -/
theorem test_csrrs_sstatus_guest :
    nextWith (step ({ hart .S true with vsstatus := 0x2800000#64 }.withFetchWord 32 0x10002573))
      (fun t => t.x 10 == 0x2800000#64) = true := by decide

/-- By hand from R173: `csrrc x10, ssp, x5` with `x5 = 7`, `ssp = 0x1F`. -/
theorem test_csrrc_clears :
    nextWith (step (({ hart .M false with ssp := 0x1F#64 }.setX 5 7#64).withFetchWord 32 0x0112B573))
      (fun t => t.x 10 == 0x1F#64 && t.ssp == 0x18#64) = true := by decide

/-- M-mode, `csrrwi x0, ssp, 8`. -/
theorem test_csrrwi_writes :
    nextWith (step ((hart .M false).withFetchWord 32 0x01145073))
      (fun t => t.ssp == 8#64 && t.x 0 == 0#64 && t.pc == 0x1004#64) = true := by decide

/-- Line 6 of 2.4: `csrrsi x10, mstatus, 0` reads with the gate open. -/
theorem test_csrrsi_reads_gate_open :
    nextWith (step ({ withRow true false true false (hart .M false) with mstatus := 0x7800000#64 }.withFetchWord 32
      0x30006573)) (fun t => t.x 10 == 0x7800000#64 && t.mstatus == 0x7800000#64) = true := by decide

/-- Corner case of 2.3: U-mode, row 1, `csrrsi x10, ssp, 0` raises although it would write nothing. -/
theorem test_csrrsi_ssp_illegal :
    illegalAt (step ((hart .U false).withFetchWord 32 0x01106573)) 0x1000#64 = true := by decide

/-- M-mode, `csrrci x10, ssp, 7`. -/
theorem test_csrrci_clears :
    nextWith (step ({ hart .M false with ssp := 0x1F#64 }.withFetchWord 32 0x0113F573))
      (fun t => t.x 10 == 0x1F#64 && t.ssp == 0x18#64) = true := by decide

/-- 2.4, the privilege check: VS-mode may not reach `henvcfg`, and the outcome is the refusal. -/
theorem test_guest_refused :
    refusedFor (step ((hart .S true).withFetchWord 32 0x60A02673)) .guestCsrAccess = true := by decide

/-- A step whose fetched instruction is a MOP, where Zicfiss is not active. -/
theorem step_mop {s : State} {i : Instr} {m : Bool} {p : Host.Outcome State Fault Refusal} (he : s.elp = .noLpExpected)
    (hf : fetchDecode s = .ok i) (hx : exec i s = zicfissDispatch m p s)
    (ha : ssActive s.priv s.virt s = some false) : step s = p := by
  simp only [step, elpPrecondition, he, hf, hx]
  exact zicfissDispatch_inactive m p s ha

/-- 2.5: U-mode, `mop.r.28 x10, x0` gives `x10 <- 0`, pc+4. -/
theorem test_mop_r_fallback :
    nextWith (step (((hart .U false).setX 10 0xDEAD#64).withFetchWord 32 0xCDC04573))
      (fun t => t.x 10 == 0#64 && t.pc == 0x1004#64) = true := by
  rw [step_mop (i := .mopRN 28 10 0) (by decide) (by rfl) rfl (by decide)]
  decide

/-- 2.5: VS-mode, row 9, `mop.rr.7 x0, x0, x1` gives pc+4 alone. -/
theorem test_mop_rr_fallback :
    nextWith (step ((withRow true false false false ((hart .S true).setX 1 0x4000#64)).withFetchWord 32 0xCE104073))
      (fun t => t.x 0 == 0#64 && t.x 1 == 0x4000#64 && t.pc == 0x1004#64) = true := by
  rw [step_mop (i := .mopRRN 7 0 0 1) (by decide) (by rfl) rfl (by decide)]
  decide

/-- 2.5: U-mode, `c.mop.1` gives pc+2 alone. -/
theorem test_cmop_fallback :
    nextWith (step (((hart .U false).setX 10 0xDEAD#64).withFetchWord 16 0x6081))
      (fun t => t.x 10 == 0xDEAD#64 && t.pc == 0x1002#64) = true := by
  rw [step_mop (i := .cmopN 1) (by decide) (by rfl) rfl (by decide)]
  decide

/-- 2.6: U-mode at 0x1000E, `lpad 0x12345` is a no-op. -/
theorem test_lpad_no_op :
    nextWith (step ({ hart .U false with pc := 0x1000E#64 }.withFetchWord 32 0x12345017))
      (fun t => t.pc == 0x10012#64 && t.elp == .noLpExpected) = true := by decide

/-- 2.6: S-mode with `menvcfg.SFCFIE` = 1, `lpad` is refused. -/
theorem test_lpad_refused :
    refusedFor (step ({ hart .S false with menvcfg := 0x800000000000000#64 }.withFetchWord 32 0x00000017))
      .lpadActiveBehaviour = true := by decide

/-- 2.6: a step begun with LP_EXPECTED is refused. -/
theorem test_elp_refused :
    refusedFor (step ({ hart .M false with elp := .lpExpected, mseccfg := 0x400#64 }.withFetchWord 32 0x12345017))
      .elpExpected = true := by decide

/-- Line 14 of 2.4: MFCFIE = 1 and SSPMP = 5 read as 0x2C00. -/
theorem test_mseccfg_read : csrRead .mseccfg { hart .M false with mseccfg := 0x400#64, sspmp := 5#6 } = 0x2C00#64 := by decide

/-- Lines 1 to 5 of 2.4: which CFI bits a write of all ones stores while the gates are shut. -/
theorem test_shut_gates_hold :
    (csrWrite .henvcfg (-1) (hart .M false)).henvcfg.getLsbD 59 = true ∧
    (csrWrite .henvcfg (-1) (hart .M false)).henvcfg.getLsbD 60 = false ∧
    (csrWrite .mstatus (-1) (hart .M false)).mstatus.getLsbD 23 = true ∧
    (csrWrite .mstatus (-1) (hart .M false)).mstatus.getLsbD 24 = false := by
  simp only [csrWrite, writeHenvcfg_henvcfg, storeHenvcfg_bit, writeMstatus_bit]
  decide

/-! ### Witnesses: for every obligation with hypotheses, states and operands that meet them -/

theorem witness_DecodeInvertsEncode :
    Instr.wellFormed (.cmopN 1) = true ∧ Instr.wellFormed (.cmopN 15) = true ∧
    Instr.wellFormed (.csrrci 31 0xFFF 31) = true ∧ Instr.wellFormed (.lpad 0xFFFFF) = true := by decide

theorem witness_DecodeAcceptsOnlyEncodings :
    decode [0x81, 0x60, 0xAA] = .ok (.cmopN 1, [0xAA]) ∧ decode [0x73, 0xA0, 0xA2, 0x30] = .ok (.csrrs 0 0x30A 5, []) :=
  ⟨by rfl, by rfl⟩

theorem witness_StepRunsDecodedInstruction :
    ((hart .M false).withFetchWord 32 0x30A2A073).elp = .noLpExpected ∧
    decode (fetchBytes ((hart .M false).withFetchWord 32 0x30A2A073)) = .ok (.csrrs 0 0x30A 5, []) :=
  ⟨by rfl, by rfl⟩

theorem witness_StepRunsInstructionInMemory :
    Instr.wellFormed (.csrrs 0 0x30A 5) = true ∧
    ((hart .M false).withFetchWord 32 0x30A2A073).elp = .noLpExpected ∧
    ∀ (k : Nat) (hk : k < (encodeBytes (.csrrs 0 0x30A 5)).length),
      ((hart .M false).withFetchWord 32 0x30A2A073).mem.read
        (((hart .M false).withFetchWord 32 0x30A2A073).pc + BitVec.ofNat 64 k).toNat =
          some (encodeBytes (.csrrs 0 0x30A 5))[k] := by decide

theorem witness_StepRefusedWhileLandingPadExpected :
    { hart .M false with elp := .lpExpected, mseccfg := 0x400#64 }.elp = .lpExpected := rfl

/-- One state for each clause: an empty text, one byte of text, a first parcel alone, three bytes; and a first parcel at the
two last addresses of the space, so that the second one is at address 0, which nothing lists. -/
theorem witness_StepStuckOutsideText :
    ((hart .M false).elp = .noLpExpected ∧ (hart .M false).mem.read 0x1000 = none) ∧
    (Memory.read [(0x1000, 0x73)] 0x1000 = some 0x73 ∧ Memory.read [(0x1000, 0x73)] 0x1001 = none) ∧
    (Memory.read [(0x1000, 0x73), (0x1001, 0xA0)] 0x1001 = some 0xA0 ∧
      (0x73#8).extractLsb' 0 2 = 3#2 ∧ (0x73#8).extractLsb' 2 3 ≠ 7#3 ∧
      Memory.read [(0x1000, 0x73), (0x1001, 0xA0)] 0x1002 = none) ∧
    (Memory.read [(0x1000, 0x73), (0x1001, 0xA0), (0x1002, 0xA2)] 0x1002 = some 0xA2 ∧
      Memory.read [(0x1000, 0x73), (0x1001, 0xA0), (0x1002, 0xA2)] 0x1003 = none) ∧
    (Memory.read [(2 ^ 64 - 2, 0x73), (2 ^ 64 - 1, 0xA0)] (2 ^ 64 - 1) = some 0xA0 ∧
      0xFFFFFFFFFFFFFFFE#64 + 2#64 = 0#64 ∧ Memory.read [(2 ^ 64 - 2, 0x73), (2 ^ 64 - 1, 0xA0)] 0 = none) := by decide

/-- `0x0000001F` of 95 section 2.1, the first clause. -/
theorem witness_StepRefusesOutsideAdmittedSet_long :
    ((hart .M false).withFetchWord 32 0x1F).elp = .noLpExpected ∧
    ((hart .M false).withFetchWord 32 0x1F).mem.read 0x1000 = some 0x1F ∧
    ((hart .M false).withFetchWord 32 0x1F).mem.read 0x1001 = some 0x00 ∧ (0x1F#8).extractLsb' 0 5 = 31#5 := by decide

/-- `0x6001` of 95 section 2.1, the second clause. -/
theorem witness_StepRefusesOutsideAdmittedSet_half :
    ((hart .M false).withFetchWord 16 0x6001).mem.read 0x1000 = some 0x01 ∧
    ((hart .M false).withFetchWord 16 0x6001).mem.read 0x1001 = some 0x60 ∧ (0x01#8).extractLsb' 0 2 ≠ 3#2 ∧
    fits (parcel 0x01 0x60) cmopMask cmopMatch = false := by decide

/-- `0x00000013` of 95 section 2.1, the third clause. -/
theorem witness_StepRefusesOutsideAdmittedSet :
    ((hart .M false).withFetchWord 32 0x13).elp = .noLpExpected ∧
    ((hart .M false).withFetchWord 32 0x13).mem.read 0x1000 = some 0x13 ∧
    ((hart .M false).withFetchWord 32 0x13).mem.read 0x1001 = some 0x00 ∧
    ((hart .M false).withFetchWord 32 0x13).mem.read 0x1002 = some 0x00 ∧
    ((hart .M false).withFetchWord 32 0x13).mem.read 0x1003 = some 0x00 ∧
    (0x13#8).extractLsb' 0 2 = 3#2 ∧ (0x13#8).extractLsb' 0 5 ≠ 31#5 ∧
    ∀ p ∈ wordRows, fits (joinParcels (parcel 0x13 0x00) (parcel 0x00 0x00)) p.1 p.2 = false := by
  refine ⟨by decide, by decide, by decide, by decide, by decide, by decide, by decide, ?_⟩
  have h : wordRows.all (fun p => !fits 0x13#32 p.1 p.2) = true := by decide
  rw [show joinParcels (parcel 0x13 0x00) (parcel 0x00 0x00) = 0x13#32 by decide]
  simpa using h

/-- The five modes, a gate of `ssp` open and one shut, and CSR numbers outside the spec at both ends of the range. -/
theorem witness_CsrAccessTable :
    (hart .M false).priv = .M ∧ ((hart .S false).priv = .S ∧ (hart .S false).virt = false) ∧
    ((hart .U false).priv = .U ∧ (hart .U false).virt = false) ∧ ((hart .S true).priv = .S ∧ (hart .S true).virt = true) ∧
    ((hart .U true).priv = .U ∧ (hart .U true).virt = true) ∧
    ssActive .S false (withRow true false false false (hart .S false)) = some true ∧
    ssActive .S false (hart .S false) = some false ∧
    ∀ a ∈ [0x000#12, 0x340#12, 0xFFF#12], (∀ c ∈ [Csr.ssp, .sstatus, .vsstatus, .mstatus, .menvcfg, .henvcfg, .mseccfg, .dcsr],
      a ≠ csrAddr c) ∧ a ≠ menvcfghAddr ∧ a ≠ henvcfghAddr := by decide

theorem witness_CsrFormsStopByAccessCheck :
    csrAccess 0x100#12 (hart .U false) = .illegal ∧ csrAccess 0x11#12 (hart .U true) = .illegal ∧
    csrAccess 0x100#12 (hart .U true) = .refuse .guestCsrAccess ∧ csrAccess 0x340#12 (hart .M false) = .refuse .csrNotInSpec := by
  decide

/-- A hart whose instruction is the last of four bytes that an even pc can complete. -/
def atTop (p : Priv) (v : Bool) : State := { hart p v with pc := 0xFFFFFFFFFFFFFFFA#64 }

theorem witness_CsrrwCompletes :
    csrAccess 0x011#12 (atTop .M false) = .ok .ssp ∧ (atTop .M false).pc.toNat + 4 < 2 ^ 64 := by decide
theorem witness_CsrrsCompletes :
    csrAccess 0x100#12 (atTop .S true) = .ok .sstatus ∧ (atTop .S true).pc.toNat + 4 < 2 ^ 64 := by decide
theorem witness_CsrrcCompletes :
    csrAccess 0x747#12 (atTop .M false) = .ok .mseccfg ∧ (atTop .M false).pc.toNat + 4 < 2 ^ 64 := by decide
theorem witness_CsrrwiCompletes :
    csrAccess 0x200#12 (atTop .S false) = .ok .vsstatus ∧ (atTop .S false).pc.toNat + 4 < 2 ^ 64 := by decide
theorem witness_CsrrsiCompletes :
    csrAccess 0x300#12 (atTop .M false) = .ok .mstatus ∧ (atTop .M false).pc.toNat + 4 < 2 ^ 64 := by decide
theorem witness_CsrrciCompletes :
    csrAccess 0x30A#12 (atTop .M false) = .ok .menvcfg ∧ csrAccess 0x60A#12 (atTop .S false) = .ok .henvcfg ∧
    (atTop .S false).pc.toNat + 4 < 2 ^ 64 := by decide

/-- The gate opens; it does not, because it is open already; bit 60 is cleared. -/
theorem witness_MenvcfgReadAndWrite :
    ((hart .M false).menvcfg.getLsbD 60 = false ∧ (-1#64).getLsbD 60 = true) ∧
    ¬((withRow true false false false (hart .M false)).menvcfg.getLsbD 60 = false ∧ (-1#64).getLsbD 60 = true) ∧
    ((0#64).getLsbD 60 = false ∧ Priv.U ≠ .M) := by decide

/-- Line 4 of 2.4: the gate of `vsstatus.UBCFIE` opens; and with `menvcfg.SBCFIE` = 0 (line 3) it does not. -/
theorem witness_HenvcfgReadAndWrite :
    ((csrRead .henvcfg (withRow true false false false (hart .M false))).getLsbD 60 = false ∧
      (csrRead .henvcfg (csrWrite .henvcfg (-1) (withRow true false false false (hart .M false)))).getLsbD 60 = true) ∧
    ¬((csrRead .henvcfg (hart .M false)).getLsbD 60 = false ∧
      (csrRead .henvcfg (csrWrite .henvcfg (-1) (hart .M false))).getLsbD 60 = true) := by
  simp only [csrRead, readHenvcfg_bit, henvcfgSBCFIE, menvcfgSBCFIE, csrWrite, writeHenvcfg_menvcfg, writeHenvcfg_henvcfg,
    storeHenvcfg_bit]
  decide

theorem witness_SstatusReadAndWrite :
    (((hart .S false).virt = false → State.mstatus = State.mstatus ∧ false = (hart .S false).menvcfg.getLsbD 60) ∧
      ((hart .S false).virt = true → State.mstatus = State.vsstatus ∧
        false = ((hart .S false).menvcfg.getLsbD 60 && (hart .S false).henvcfg.getLsbD 60))) ∧
    (((hart .S true).virt = false → State.vsstatus = State.mstatus ∧ false = (hart .S true).menvcfg.getLsbD 60) ∧
      ((hart .S true).virt = true → State.vsstatus = State.vsstatus ∧
        false = ((hart .S true).menvcfg.getLsbD 60 && (hart .S true).henvcfg.getLsbD 60))) :=
  ⟨⟨fun _ => ⟨rfl, by decide⟩, fun h => absurd h (by decide)⟩, fun h => absurd h (by decide), fun _ => ⟨rfl, by decide⟩⟩

theorem witness_SspCsrIsWholeRegister :
    csrAccess sspCsrAddr (atTop .M false) = .ok .ssp ∧
    csrAccess sspCsrAddr (withRow true true false true (atTop .U true)) = .ok .ssp ∧
    (atTop .M false).pc.toNat + 4 < 2 ^ 64 := by decide

theorem witness_SspAccessRule :
    (hart .M false).priv = .M ∧
    ((hart .U true).priv ≠ .M ∧ ssActive .U true (withRow true true true false (hart .U true)) = some false) ∧
    ((hart .S true).priv ≠ .M ∧ ssActive .S true (withRow true true false false (hart .S true)) = some true) := by decide

theorem witness_MenvcfgSbcfieRules :
    (withRow true false false false (hart .S false)).menvcfg.getLsbD 60 = true ∧
    ((withRow false true true true (hart .U true)).menvcfg.getLsbD 60 = false ∧ (hart .U true).priv ≠ .M) ∧
    Csr.henvcfg ≠ .menvcfg := by decide

theorem witness_HenvcfgSbcfieRules :
    (csrRead .henvcfg (withRow true true false false (hart .S true))).getLsbD 60 = true ∧
    ((csrRead .henvcfg (withRow false true true true (hart .S true))).getLsbD 60 = false ∧ (hart .S true).priv ≠ .M ∧
      (hart .S true).virt = true) ∧
    (csrRead .henvcfg (withRow true false true true (hart .U true))).getLsbD 60 = false := by decide

theorem witness_MstatusUbcfieRules :
    (csrRead .mstatus (withRow true false true false (hart .U false))).getLsbD 24 = true ∧
    ((csrRead .mstatus (withRow false false true false (hart .U false))).getLsbD 24 = false ∧ (hart .U false).priv = .U ∧
      (hart .U false).virt = false) ∧
    (withRow false false true false (hart .M false)).menvcfg.getLsbD 60 = false := by decide

theorem witness_VsstatusUbcfieRules :
    (csrRead .vsstatus (withRow true true false true (hart .U true))).getLsbD 24 = true ∧
    ((csrRead .vsstatus (withRow true false false true (hart .U true))).getLsbD 24 = false ∧ (hart .U true).priv = .U ∧
      (hart .U true).virt = true ∧ (csrRead .henvcfg (withRow true false false true (hart .U true))).getLsbD 60 = false) ∧
    (hart .U true).menvcfg.getLsbD 60 = false := by decide

/-- The five modes, each with its own enable 0 and the other four 1; an instruction that completes; the last pc. -/
theorem witness_ZicfilpInactiveRules :
    zicfilpOff { hart .M false with menvcfg := -1, henvcfg := -1, mstatus := -1, vsstatus := -1 } ∧
    zicfilpOff { hart .S false with mseccfg := -1, henvcfg := -1, mstatus := -1, vsstatus := -1 } ∧
    zicfilpOff { hart .S true with mseccfg := -1, menvcfg := -1, mstatus := -1, vsstatus := -1 } ∧
    zicfilpOff { hart .U false with mseccfg := -1, menvcfg := -1, henvcfg := -1, vsstatus := -1 } ∧
    zicfilpOff { hart .U true with mseccfg := -1, menvcfg := -1, henvcfg := -1, mstatus := -1 } ∧
    (hart .U true).elp = .noLpExpected ∧ (∃ t, exec (.lpad 1) (hart .U true) = .next t) ∧
    (atTop .U true).pc.toNat + 4 < 2 ^ 64 := by
  refine ⟨?_, ?_, ?_, ?_, ?_, by decide, exists_next (p := fun _ => true) (by decide), by decide⟩ <;>
    (unfold zicfilpOff; decide)

theorem witness_ZicfilpEnableRules :
    ((csrRead .henvcfg { hart .S true with menvcfg := -1 }).getLsbD 59 = false ∧ (hart .S true).priv = .S ∧
      (hart .S true).virt = true) ∧
    ((csrRead .vsstatus { hart .U true with mstatus := -1 }).getLsbD 23 = false ∧ (hart .U true).priv = .U ∧
      (hart .U true).virt = true) ∧
    ((csrRead .mseccfg { hart .M false with menvcfg := -1 }).getLsbD 10 = false ∧ (hart .M false).priv = .M) := by decide

theorem witness_LpadRefusedWhereActive :
    lpActive .M false { hart .M false with mseccfg := 0x400#64 } = true ∧
    lpActive .S false { hart .S false with menvcfg := 0x800000000000000#64 } = true ∧
    lpActive .U true { hart .U true with vsstatus := 0x800000#64 } = true := by decide

theorem witness_SstatusIsWindow :
    (∀ f ∈ [23, 24, 25], f ∈ [23, 24, 25]) ∧ (hart .S false).virt = false ∧ (hart .S true).virt = true := by decide

theorem witness_ZicfissWordsRevert :
    ((hart .U false).priv ≠ .M ∧ ssActive .U false (hart .U false) = some false) ∧
    ∃ t, exec (.mopRN 28 10 0) (hart .U false) = .next t := by
  refine ⟨by decide, ?_⟩
  have h : exec (.mopRN 28 10 0) (hart .U false) = zimopBehaviour 10 (hart .U false) :=
    zicfissDispatch_inactive (inZicfiss32 (mopRWord 28 0 10)) (zimopBehaviour 10 (hart .U false)) (hart .U false) (by decide)
  rw [h]
  exact exists_next (p := fun _ => true) (by decide)

/-- U-mode with every enable 0; the last pc for four bytes, and the last one for two. -/
theorem witness_MopFallbackCompletes :
    ssActive (atTop .U false).priv (atTop .U false).virt (atTop .U false) = some false ∧
    (atTop .U false).pc.toNat + 4 < 2 ^ 64 ∧
    ssActive .S true { hart .S true with pc := 0xFFFFFFFFFFFFFFFC#64 } = some false ∧
    { hart .S true with pc := 0xFFFFFFFFFFFFFFFC#64 }.pc.toNat + 2 < 2 ^ 64 := by decide

/-- A CSR instruction, and one without a CSR and without a destination. -/
theorem witness_InstructionFrame :
    (∃ t, exec (.csrrw 6 0x011 6) (hart .M false) = .next t) ∧ (∃ t, exec (.lpad 0) (hart .M false) = .next t) ∧
    destOf (.csrrw 6 0x011 6) ≠ some 7 ∧ destOf (.lpad 0) ≠ some 1 ∧ csrNumOf (.lpad 0) = none ∧
    csrNumOf (.csrrw 6 0x011 6) ≠ some (csrAddr .menvcfg) :=
  ⟨exists_next (p := fun _ => true) (by decide), exists_next (p := fun _ => true) (by decide), by decide, by decide, by decide,
    by decide⟩

/-- The last pc that completes, and the first that does not. -/
theorem witness_PcAdvancesBySize :
    (∃ t, exec (.lpad 0) (atTop .U false) = .next t) ∧
    exec (.lpad 0) { hart .U false with pc := 0xFFFFFFFFFFFFFFFC#64 } = .refused .pcWrap ∧
    2 ^ 64 ≤ { hart .U false with pc := 0xFFFFFFFFFFFFFFFC#64 }.pc.toNat + (Instr.lpad 0).size :=
  ⟨exists_next (p := fun _ => true) (by decide), by rfl, by decide⟩

theorem witness_OnlyIllegalInstructionExceptions :
    exec (.csrrsi 10 0x011 0) (hart .U false) =
      .fault (.illegalInstruction illegalInsnCode (Config.illegalTval (csrWord 0x011 0 6 10)) 0x1000#64) := by rfl

theorem witness_ReservedPositionsReadZero : Csr.dcsr ≠ .ssp ∧ Csr.sstatus ≠ .ssp := by decide

theorem witness_NoModeSwitchesItsOwnProtection :
    (hart .S true).priv ≠ .M ∧ ∃ t, exec (.csrrs 10 0x100 0) (hart .S true) = .next t :=
  ⟨by decide, exists_next (p := fun _ => true) (by decide)⟩

theorem witness_InactiveModeCannotObserveSsp :
    ssActive (hart .U false).priv (hart .U false).virt (hart .U false) = some false ∧
    ssActive .U true (withRow true true true false (hart .U true)) = some false := by decide

/-- A state that meets the invariant and whose step completes: U-mode, `lpad`. -/
def invState : State :=
  { hart .U false with
    sspmp := Config.sspmpReset
    mem := [(0x1000, 0x17), (0x1001, 0x50), (0x1002, 0x34), (0x1003, 0x12)] }

theorem witness_StepKeepsTheInvariant : Inv invState ∧ ∃ t, step invState = .next t := by
  refine ⟨⟨nofun, rfl, rfl, ?_, ?_, fun _ => rfl, by decide⟩, exists_next (p := fun _ => true) (by decide)⟩
  · exact ⟨by decide, by decide, by decide, by decide, by decide, by decide⟩
  · simp [sspmpIsLegal, mseccfgSSPMP, invState, Config.sspmpLegal]

theorem witness_InstructionsKeepElpInvariant :
    elpInvariant (hart .M false) ∧ (∃ t, exec (.csrrci 0 0x747 31) (hart .M false) = .next t) ∧
    elpInvariant { hart .M false with elp := .lpExpected, mseccfg := 0x400#64 } := by
  refine ⟨fun _ => rfl, ?_, fun h => absurd h (by decide)⟩
  simp only [exec, execCsrrci, csrrciIn, csrInstructionIn_next_iff]
  exact ⟨_, .mseccfg, by decide, by decide, rfl⟩

theorem witness_EnablingOrderFixesGatedFields :
    (0x1000000000000000#64).getLsbD 60 = true ∧ (0#64).getLsbD 60 = false ∧ Priv.S ≠ .M := by decide

/-- By hand from R6, R100: four bytes written two below the top of the space; the third one lies at address 0. -/
theorem test_memory_wraps :
    (memWrite 0xFFFFFFFFFFFFFFFE#64 4 0x30A2A073 (hart .M false)).mem =
      [(0, 0xA2), (1, 0x30), (2 ^ 64 - 2, 0x73), (2 ^ 64 - 1, 0xA0)] := by decide

/-- A range that passes the top of the space, one address outside it, and the empty range. -/
theorem witness_MemoryReadAfterWrite :
    4 ≤ 2 ^ 64 ∧ (∀ k < 4, 2 ≠ (0xFFFFFFFFFFFFFFFE#64 + BitVec.ofNat 64 k).toNat) ∧
    (∀ k < 0, 0x1000 ≠ (0x1000#64 + BitVec.ofNat 64 k).toNat) ∧ (hart .M false).mem.wf = true := by decide

/-! ### Another configuration (R4) -/

/-- A configuration apart from the default one in every argument: `ssp` at 0x8C0, `sstatus` and `vsstatus` exchanged, `menvcfg`
open to S-mode, and another `lpad` opcode. -/
def otherParams : Config.Params :=
  { csrAddr := fun c => match c with
      | .ssp => csrAddr .ssp | .sstatus => csrAddr .vsstatus | .vsstatus => csrAddr .sstatus | .mstatus => csrAddr .mstatus
      | .menvcfg => csrAddr .menvcfg | .henvcfg => csrAddr .henvcfg | .mseccfg => csrAddr .mseccfg | .dcsr => csrAddr .dcsr
    sspCsrAddr := 0x8C0#12
    csrPrivOk := fun c p v => if c = .menvcfg ∧ p = .S then .ok else csrPrivOk c p v
    lpad := { mask := 0x00000FFF#32, pattern := 0x0000002B#32 } }

/-- By hand from R135: with LPAD_MATCH = 0x2B the word 0x0000102B is `lpad 1`, and 0x00001017 is no instruction. -/
theorem test_other_lpad :
    decodeWordIn otherParams.lpad 0x0000102B = some (.lpad 1) ∧ decodeWordIn otherParams.lpad 0x00001017 = none := by decide

/-- By hand from R162 and R170: the numbers and the access table of `otherParams` decide. -/
theorem test_other_access :
    csrAccessIn otherParams 0x8C0 (hart .M false) = .ok .ssp ∧
    csrAccessIn otherParams 0x011 (hart .M false) = .refuse .csrNotInSpec ∧
    csrAccessIn otherParams 0x200 (hart .S true) = .ok .sstatus ∧
    csrAccessIn otherParams 0x30A (hart .S false) = .ok .menvcfg := by decide

theorem witness_DefaultConfiguration : csrNumOf (.lpad 1) = none ∧ csrNumOf (.mopRN 28 10 0) = none := by decide

theorem witness_ConfiguredStepRunsDecodedInstruction :
    (((hart .U false).withFetchWord 32 0x0000102B).elp = .noLpExpected ∧
      decodeIn otherParams.lpad (fetchBytes ((hart .U false).withFetchWord 32 0x0000102B)) = .ok (.lpad 1, [])) ∧
    { hart .M false with elp := .lpExpected, mseccfg := 0x400#64 }.elp = .lpExpected :=
  ⟨⟨by rfl, by rfl⟩, rfl⟩

theorem witness_ConfiguredLpadPattern :
    fits 0x30A2A073 csrMask (csrMatch 2) = true ∧ (wordRows.take 8).all (fun p => !fits 0x0000102B p.1 p.2) = true := by decide

/-- `otherParams`: distinct numbers, the three answers of its table, and numbers that name nothing. -/
theorem witness_ConfiguredAccessCheck :
    distinctNums otherParams ∧ otherParams.csrPrivOk .menvcfg .S false = .ok ∧
    otherParams.csrPrivOk .mstatus .S false = .illegal ∧ otherParams.csrPrivOk .henvcfg .S true = .refuse ∧
    (hart .M false).priv = .M ∧ (hart .S true).priv ≠ .M ∧
    ∀ a ∈ [menvcfghAddr, henvcfghAddr, 0x011#12], ∀ c ∈ [Csr.ssp, .sstatus, .vsstatus, .mstatus, .menvcfg, .henvcfg, .mseccfg,
      .dcsr], a ≠ csrNumIn otherParams c := by
  refine ⟨?_, by decide, by decide, by decide, by decide, by decide, by decide⟩
  intro c d
  cases c <;> cases d <;> decide

theorem witness_ConfiguredCsrInstructions :
    csrAccessIn otherParams 0x300 (hart .S false) = .illegal ∧
    csrAccessIn otherParams 0x011 (hart .U false) = .refuse .csrNotInSpec ∧
    csrAccessIn otherParams 0x30A (atTop .S false) = .ok .menvcfg ∧ (atTop .S false).pc.toNat + 4 < 2 ^ 64 := by decide

/-- S-mode writes `menvcfg`, which the default table does not let it do: `csrrwi x0, menvcfg, 8`. -/
theorem witness_ConfiguredStepKeepsTheInvariant :
    Inv { invState with priv := .S, mem := [(0x1000, 0x73), (0x1001, 0x50), (0x1002, 0xA4), (0x1003, 0x30)] } ∧
    ∃ t, stepIn otherParams
      { invState with priv := .S, mem := [(0x1000, 0x73), (0x1001, 0x50), (0x1002, 0xA4), (0x1003, 0x30)] } = .next t := by
  refine ⟨⟨nofun, rfl, rfl, ?_, ?_, fun _ => rfl, by decide⟩, exists_next (p := fun _ => true) (by decide)⟩
  · exact ⟨by decide, by decide, by decide, by decide, by decide, by decide⟩
  · simp [sspmpIsLegal, mseccfgSSPMP, invState, Config.sspmpLegal]

end Sys2Proof.Tests
end

/-! ## Every step keeps the invariant of the hart, under every configuration -/

namespace Sys2Proof.Proofs
open Sys2Proof.Machine

/-! ### Reserved positions (R69): no bit of the mask `r` is written -/

theorem getLsbD_false_of_and_eq_zero {m r : Word} (h : m &&& r = 0) {i : Nat} (hr : r.getLsbD i = true) :
    m.getLsbD i = false := by
  have hb := congrArg (·.getLsbD i) h
  simpa [hr] using hb

/-- A write that reaches no position of `r` leaves the bits at `r` as they were. -/
theorem writeFields_and {cfi drawn r : Word} (hc : cfi &&& r = 0) (hd : drawn &&& r = 0) (old v legal : Word) :
    writeFields old cfi v drawn legal &&& r = old &&& r := by
  refine BitVec.eq_of_getLsbD_eq fun i _ => ?_
  rw [BitVec.getLsbD_and, BitVec.getLsbD_and, getLsbD_writeFields]
  cases hr : r.getLsbD i with
  | false => simp
  | true => simp [getLsbD_false_of_and_eq_zero hc hr, getLsbD_false_of_and_eq_zero hd hr]

/-- A gate only takes positions away from a write. -/
theorem gatedMask_and {l : Layout} {r : Word} (h : cfiMask l &&& r = 0) (i : Nat) (gate : Bool) :
    gatedMask l i gate &&& r = 0 := by
  cases gate with
  | true => exact h
  | false =>
    calc cfiMask l &&& ~~~bitMask 64 i &&& r
        = ~~~bitMask 64 i &&& (cfiMask l &&& r) := by ac_rfl
      _ = 0 := by rw [h]; simp

theorem putBit_and {i : Nat} {r : Word} (hi : i < 64) (hr : r.getLsbD i = false) (b : Bool) (v : Word) :
    putBit i b v &&& r = v &&& r := by
  refine BitVec.eq_of_getLsbD_eq fun j _ => ?_
  rw [BitVec.getLsbD_and, BitVec.getLsbD_and, getLsbD_putBit _ _ _ _ hi]
  by_cases hj : j = i
  · subst hj; simp [hr]
  · simp [hj]

/-- A 32-bit register that stores the low half of a value `w` keeps its bits at `r` where `w` agrees with it there. -/
theorem setWidth_setWidth_and {w r : Word} {d : BitVec 32} (h : w &&& r = d.setWidth 64 &&& r) :
    (w.setWidth 32).setWidth 64 &&& r = d.setWidth 64 &&& r := by
  refine BitVec.eq_of_getLsbD_eq fun i hi => ?_
  have hw := congrArg (·.getLsbD i) h
  by_cases hlow : i < 32
  · simpa [BitVec.getLsbD_setWidth, hlow, hi] using hw
  · simp [BitVec.getLsbD_setWidth, hlow, BitVec.getLsbD_of_ge d i (Nat.le_of_not_lt hlow)]

/-- The stored reserved and constant-zero positions of every CSR are in `t` what they are in `s` (R69). The positions of
SSPMP count as reserved in the stored `mseccfg`, whose field stands on its own. -/
structure SameReserved (s t : State) : Prop where
  menvcfg : t.menvcfg &&& ~~~readMask menvcfgLayout = s.menvcfg &&& ~~~readMask menvcfgLayout
  henvcfg : t.henvcfg &&& ~~~readMask henvcfgLayout = s.henvcfg &&& ~~~readMask henvcfgLayout
  mstatus : t.mstatus &&& ~~~readMask mstatusLayout = s.mstatus &&& ~~~readMask mstatusLayout
  vsstatus : t.vsstatus &&& ~~~readMask vsstatusLayout = s.vsstatus &&& ~~~readMask vsstatusLayout
  mseccfg : t.mseccfg &&& ~~~(readMask mseccfgLayout &&& ~~~sspmpMask) =
    s.mseccfg &&& ~~~(readMask mseccfgLayout &&& ~~~sspmpMask)
  dcsr : t.dcsr.setWidth 64 &&& ~~~readMask dcsrLayout = s.dcsr.setWidth 64 &&& ~~~readMask dcsrLayout

theorem SameReserved.trans {s t u : State} (h : SameReserved s t) (k : SameReserved t u) : SameReserved s u where
  menvcfg := k.menvcfg.trans h.menvcfg
  henvcfg := k.henvcfg.trans h.henvcfg
  mstatus := k.mstatus.trans h.mstatus
  vsstatus := k.vsstatus.trans h.vsstatus
  mseccfg := k.mseccfg.trans h.mseccfg
  dcsr := k.dcsr.trans h.dcsr

theorem SameReserved.reservedZero {s t : State} (h : SameReserved s t) (hs : reservedZero s) : reservedZero t := by
  obtain ⟨hme, hhe, hms, hvs, hsec, hd⟩ := hs
  exact ⟨h.menvcfg.trans hme, h.henvcfg.trans hhe, h.mstatus.trans hms, h.vsstatus.trans hvs, h.mseccfg.trans hsec,
    h.dcsr.trans hd⟩

/-! What each write leaves at the reserved positions of the register it stores to. -/

theorem sameReserved_storeMenvcfg (v : Word) (s : State) : SameReserved s (storeMenvcfg v s) :=
  { menvcfg := writeFields_and (by decide) (by decide) .., henvcfg := rfl, mstatus := rfl, vsstatus := rfl, mseccfg := rfl,
    dcsr := rfl }

theorem sameReserved_drawAtMenvcfgGate (s : State) : SameReserved s (drawAtMenvcfgGate s) where
  menvcfg := rfl
  henvcfg := putBit_and (by decide) (by decide) ..
  mstatus := putBit_and (by decide) (by decide) ..
  vsstatus := by
    cases hd : Config.draw s.draws with
    | false => simp [drawAtMenvcfgGate, hd]
    | true =>
      simp only [drawAtMenvcfgGate, hd, if_true]
      exact putBit_and (by decide) (by decide) ..
  mseccfg := rfl
  dcsr := rfl

theorem sameReserved_writeMenvcfg (v : Word) (s : State) : SameReserved s (writeMenvcfg v s) := by
  unfold writeMenvcfg
  split
  · exact (sameReserved_storeMenvcfg v s).trans (sameReserved_drawAtMenvcfgGate _)
  · exact sameReserved_storeMenvcfg v s

theorem sameReserved_storeHenvcfg (v : Word) (s : State) : SameReserved s (storeHenvcfg v s) :=
  { menvcfg := rfl, henvcfg := writeFields_and (gatedMask_and (by decide) ..) (by decide) .., mstatus := rfl,
    vsstatus := rfl, mseccfg := rfl, dcsr := rfl }

theorem sameReserved_drawAtHenvcfgGate (s : State) : SameReserved s (drawAtHenvcfgGate s) :=
  { menvcfg := rfl, henvcfg := rfl, mstatus := rfl, vsstatus := putBit_and (by decide) (by decide) .., mseccfg := rfl,
    dcsr := rfl }

theorem sameReserved_writeHenvcfg (v : Word) (s : State) : SameReserved s (writeHenvcfg v s) := by
  unfold writeHenvcfg
  split
  · exact (sameReserved_storeHenvcfg v s).trans (sameReserved_drawAtHenvcfgGate _)
  · exact sameReserved_storeHenvcfg v s

theorem sameReserved_writeMstatus (v : Word) (s : State) : SameReserved s (writeMstatus v s) :=
  { menvcfg := rfl, henvcfg := rfl, mstatus := writeFields_and (gatedMask_and (by decide) ..) (by decide) ..,
    vsstatus := rfl, mseccfg := rfl, dcsr := rfl }

theorem sameReserved_writeVsstatus (v : Word) (s : State) : SameReserved s (writeVsstatus v s) :=
  { menvcfg := rfl, henvcfg := rfl, mstatus := rfl,
    vsstatus := writeFields_and (gatedMask_and (by decide) ..) (by decide) .., mseccfg := rfl, dcsr := rfl }

/-- The window `sstatus` writes to one of the two registers behind it, and every field of it is a field there (R46). -/
theorem sameReserved_writeSstatus (v : Word) (s : State) : SameReserved s (writeSstatus v s) := by
  unfold writeSstatus
  split
  · exact { menvcfg := rfl, henvcfg := rfl, mstatus := rfl,
            vsstatus := writeFields_and (gatedMask_and (by decide) ..) (by decide) .., mseccfg := rfl, dcsr := rfl }
  · exact { menvcfg := rfl, henvcfg := rfl, mstatus := writeFields_and (gatedMask_and (by decide) ..) (by decide) ..,
            vsstatus := rfl, mseccfg := rfl, dcsr := rfl }

theorem sameReserved_storeMseccfg (v : Word) (s : State) : SameReserved s (storeMseccfg v s) :=
  { menvcfg := rfl, henvcfg := rfl, mstatus := rfl, vsstatus := rfl,
    mseccfg := writeFields_and (by decide) (by decide) .., dcsr := rfl }

theorem sameReserved_clearElpIfInactive (s : State) : SameReserved s (clearElpIfInactive s) := by
  constructor <;> simp

theorem sameReserved_writeMseccfg (v : Word) (s : State) : SameReserved s (writeMseccfg v s) :=
  (sameReserved_storeMseccfg v s).trans (sameReserved_clearElpIfInactive _)

theorem sameReserved_writeDcsr (v : Word) (s : State) : SameReserved s (writeDcsr v s) :=
  { menvcfg := rfl, henvcfg := rfl, mstatus := rfl, vsstatus := rfl, mseccfg := rfl,
    dcsr := setWidth_setWidth_and (writeFields_and (by decide) (by decide) ..) }

theorem sameReserved_csrWrite (c : Csr) (v : Word) (s : State) : SameReserved s (csrWrite c v s) := by
  cases c with
  | ssp => exact ⟨rfl, rfl, rfl, rfl, rfl, rfl⟩
  | sstatus => exact sameReserved_writeSstatus v s
  | vsstatus => exact sameReserved_writeVsstatus v s
  | mstatus => exact sameReserved_writeMstatus v s
  | menvcfg => exact sameReserved_writeMenvcfg v s
  | henvcfg => exact sameReserved_writeHenvcfg v s
  | mseccfg => exact sameReserved_writeMseccfg v s
  | dcsr => exact sameReserved_writeDcsr v s

/-! ### The other parts of the invariant -/

/-- A write of any CSR leaves a legal SSPMP legal (R58, R169). -/
theorem sspmpIsLegal_csrWrite {s : State} (h : sspmpIsLegal s) (c : Csr) (v : Word) : sspmpIsLegal (csrWrite c v s) := by
  cases c with
  | mseccfg => simpa [sspmpIsLegal, mseccfgSSPMP, csrWrite] using sspmpLegal_legalSspmp _ _
  | ssp | sstatus | vsstatus | mstatus | menvcfg | henvcfg | dcsr =>
    simpa [sspmpIsLegal, mseccfgSSPMP, csrWrite] using h

/-- The one effect of a CSR write on ELP is to clear it (R178). -/
theorem csrWrite_elp_of_noLpExpected {s : State} (h : s.elp = .noLpExpected) (c : Csr) (v : Word) :
    (csrWrite c v s).elp = .noLpExpected := by
  cases c with
  | mseccfg =>
    simp only [csrWrite, writeMseccfg, clearElpIfInactive]
    split
    · rfl
    · exact h
  | ssp | sstatus | vsstatus | mstatus | menvcfg | henvcfg | dcsr => simpa [csrWrite] using h

/-- A write of a general register never reaches the slot of `x[0]` (R22). -/
theorem setX_regs_zero (s : State) (i : Reg) (v : Word) : (s.setX i v).regs[0] = s.regs[0] := by
  unfold State.setX
  split
  · rfl
  · rename_i hi
    have hne : i.toNat ≠ 0 := fun h0 => hi (BitVec.eq_of_toNat_eq h0)
    exact Vector.getElem_set_ne i.isLt (by decide) hne

theorem setXIf_regs_zero (reads : Bool) (i : Reg) (v : Word) (s : State) :
    (setXIf reads i v s).regs[0] = s.regs[0] := by
  cases reads with
  | false => rfl
  | true => exact setX_regs_zero s i v

/-- An instruction has two bytes or four (R130). -/
theorem size_eq_two_or_four (i : Instr) : i.size = 2 ∨ i.size = 4 := by
  cases i with
  | cmopN n => exact .inl rfl
  | csrrw | csrrs | csrrc | csrrwi | csrrsi | csrrci | mopRN | mopRRN | lpad => exact .inr rfl

/-- Both sizes are even, so the pc stays even (R23, R104). -/
theorem toNat_add_size_even {pc : Word} (h : pc.toNat % 2 = 0) (i : Instr) :
    (pc + BitVec.ofNat 64 i.size).toNat % 2 = 0 := by
  rw [BitVec.toNat_add, BitVec.toNat_ofNat]
  obtain hsize | hsize := size_eq_two_or_four i <;> omega

/-! ### One instruction -/

/-- What is left of `nextForm` when the operands are forgotten: at most one CSR write, then at most one register write, then
the advance of the pc. -/
theorem nextForm_stages {P : Config.Params} {i : Instr} {s t : State} (h : nextForm P i s t) :
    ∃ (u : State) (reads : Bool) (rd : Reg) (old : Word), (u = s ∨ ∃ c v, u = csrWrite c v s) ∧
      t = { setXIf reads rd old u with pc := s.pc + BitVec.ofNat 64 i.size } := by
  obtain ⟨c, rd, reads, writes, v, -, -, -, rfl⟩ | ⟨rd, -, -, rfl⟩ | ⟨-, -, rfl⟩ := h
  · refine ⟨csrWriteIf writes c v s, reads, rd, csrRead c s, ?_, rfl⟩
    cases writes with
    | false => exact .inl rfl
    | true => exact .inr ⟨c, v, rfl⟩
  · exact ⟨s, true, rd, 0#64, .inl rfl, rfl⟩
  · exact ⟨s, false, 0#5, 0#64, .inl rfl, rfl⟩

/-- A CSR write begun with NO_LP_EXPECTED keeps the invariant, whichever mode makes it. -/
theorem inv_csrWrite {s : State} (hs : Inv s) (he : s.elp = .noLpExpected) (c : Csr) (v : Word) :
    Inv (csrWrite c v s) where
  mode := by simpa [modeLegal] using hs.mode
  pc := by simpa [pcEven] using hs.pc
  slot0 := by simpa [zeroSlot] using hs.slot0
  reserved := (sameReserved_csrWrite c v s).reservedZero hs.reserved
  sspmp := sspmpIsLegal_csrWrite hs.sspmp c v
  elp := fun _ => csrWrite_elp_of_noLpExpected he c v
  mem := by simpa using hs.mem

/-- The end of an instruction keeps the invariant: its register write and its advance to an even pc. -/
theorem inv_setXIf_withPc {s : State} (hs : Inv s) (he : s.elp = .noLpExpected) (reads : Bool) (rd : Reg) (old : Word)
    {pc : Word} (hpc : pc.toNat % 2 = 0) : Inv { setXIf reads rd old s with pc := pc } where
  mode := by simpa [modeLegal] using hs.mode
  pc := hpc
  slot0 := (setXIf_regs_zero ..).trans hs.slot0
  reserved := by simpa [reservedZero] using hs.reserved
  sspmp := by simpa [sspmpIsLegal, mseccfgSSPMP] using hs.sspmp
  elp := fun _ => (setXIf_elp ..).trans he
  mem := by simpa using hs.mem

theorem inv_execIn {P : Config.Params} {i : Instr} {s t : State} (hs : Inv s) (he : s.elp = .noLpExpected)
    (h : execIn P i s = .next t) : Inv t := by
  obtain ⟨u, reads, rd, old, hu, rfl⟩ := nextForm_stages (execIn_next_cases h).2
  have hpc : (s.pc + BitVec.ofNat 64 i.size).toNat % 2 = 0 := toNat_add_size_even hs.pc i
  obtain rfl | ⟨c, v, rfl⟩ := hu
  · exact inv_setXIf_withPc hs he reads rd old hpc
  · exact inv_setXIf_withPc (inv_csrWrite hs he c v) (csrWrite_elp_of_noLpExpected he c v) reads rd old hpc

/-- Settles O57: a step that completes begins with NO_LP_EXPECTED, and the instruction it runs keeps every part of the
invariant; the access table decides only whether it completes. -/
theorem configuredStepKeepsTheInvariant : Obligations.ConfiguredStepKeepsTheInvariant := by
  intro P s t hs h
  obtain ⟨he, i, -, hx⟩ := (stepIn_next_iff P s t).mp h
  exact inv_execIn hs he hx

end Sys2Proof.Proofs

/-! ## Memory: several bytes read after several written -/

namespace Sys2Proof.Proofs
open Sys2Proof.Machine

/-- The remainder of a number by `256 ^ (n + 1)`, least significant byte first. -/
theorem mod_pow_succ_bytes (v n : Nat) : v % 256 ^ (n + 1) = v % 256 + 256 * (v / 256 % 256 ^ n) := by
  rw [Nat.pow_succ', Nat.mod_mul]

/-- Where the `n` bytes from `a` on are the lowest little-endian bytes of `v`, reading them gives the low `n` bytes of `v`
(R103). -/
theorem readLE_of_reads (m : Memory) (n : Nat) (a : Word) (v : Nat)
    (h : ∀ k < n, m.read (a + BitVec.ofNat 64 k).toNat = some (BitVec.ofNat 8 (v / 256 ^ k))) :
    m.readLE a n = some (v % 256 ^ n) := by
  induction n generalizing a v with
  | zero => simp [Memory.readLE, Nat.mod_one]
  | succ n ih =>
    have hfirst : m.read a.toNat = some (BitVec.ofNat 8 v) := by simpa using h 0 (Nat.succ_pos n)
    have hrest : m.readLE (a + 1#64) n = some (v / 256 % 256 ^ n) := by
      refine ih (a + 1#64) (v / 256) fun k hk => ?_
      have hk1 := h (k + 1) (Nat.succ_lt_succ hk)
      rwa [Nat.add_comm k 1, BitVec.ofNat_add, ← BitVec.add_assoc, Nat.add_comm 1 k, Nat.pow_succ',
        ← Nat.div_div_eq_div_mul] at hk1
    simp [Memory.readLE, hfirst, hrest, mod_pow_succ_bytes]

/-- The address `k` steps above `a` lies `k` steps above `a`, as long as the steps do not go round the space (R6). -/
theorem toNat_add_ofNat_sub (a : Word) {k : Nat} (hk : k < memTop) : (a + BitVec.ofNat 64 k - a).toNat = k := by
  rw [BitVec.add_comm, BitVec.add_sub_cancel, BitVec.toNat_ofNat]
  exact Nat.mod_eq_of_lt hk

/-- An address that no step from `a` below `n` reaches lies `n` steps or more above `a`. -/
theorem le_distance_of_ne {a b : Word} {n : Nat} (h : ∀ k < n, b.toNat ≠ (a + BitVec.ofNat 64 k).toNat) :
    n ≤ (b - a).toNat := by
  refine Nat.le_of_not_lt fun hlt => h _ hlt ?_
  rw [BitVec.ofNat_toNat, BitVec.setWidth_eq, BitVec.add_comm, BitVec.sub_add_cancel]

theorem memRead_memWrite (s : State) (a : Word) {n : Nat} (v : Nat) (hn : n ≤ memTop) :
    memRead a n (memWrite a n v s) = some (v % 256 ^ n) := by
  refine readLE_of_reads _ n a v fun k hk => ?_
  rw [memWrite, read_writeLE n s.mem a v _ hn, toNat_add_ofNat_sub a (hk.trans_le hn), if_pos hk]

/-- A write of several bytes leaves every other byte as it was, an address outside the space among them (R100). -/
theorem read_memWrite_of_ne (s : State) (a : Word) {n : Nat} (v : Nat) (hn : n ≤ memTop) {b : Nat}
    (h : ∀ k < n, b ≠ (a + BitVec.ofNat 64 k).toNat) : (memWrite a n v s).mem.read b = s.mem.read b := by
  by_cases hb : b < memTop
  · have hw : (BitVec.ofNat 64 b).toNat = b := by
      rw [BitVec.toNat_ofNat]
      exact Nat.mod_eq_of_lt hb
    rw [← hw] at h ⊢
    rw [memWrite, read_writeLE n s.mem a v _ hn, if_neg (Nat.not_lt.mpr (le_distance_of_ne h))]
  · simp [Memory.read, hb]

/-- Settles O51, from what one byte reads as after a write of several. -/
theorem memoryReadAfterWrite : Obligations.MemoryReadAfterWrite := fun s addr _ v hn =>
  ⟨memRead_memWrite s addr v hn, fun _ ha => read_memWrite_of_ne s addr v hn ha, wf_memWrite addr _ v s⟩

end Sys2Proof.Proofs

/-! ## The configured machine and the one of `exec` and `step` (R4) -/

namespace Sys2Proof.Proofs
open Sys2Proof.Machine

/-- An instruction that addresses no CSR asks the configuration nothing. -/
theorem execIn_eq_exec_of_csrNumOf_none (P : Config.Params) {i : Instr} (h : csrNumOf i = none) (s : State) :
    execIn P i s = exec i s := by
  cases i with
  | csrrw | csrrs | csrrc | csrrwi | csrrsi | csrrci => simp [csrNumOf] at h
  | mopRN | mopRRN | cmopN | lpad => rfl

/-- Settles O52: the default machine is the configured one by definition, and only CSR instructions ask the
configuration. -/
theorem defaultConfiguration : Obligations.DefaultConfiguration :=
  ⟨exec_eq_execIn, step_eq_stepIn, fun _ => rfl, fun _ _ => rfl,
    fun P _ s h => execIn_eq_exec_of_csrNumOf_none P h s⟩

/-! ### A step begun with NO_LP_EXPECTED ends as its fetch decides -/

theorem stepIn_of_decodeIn_ok {P : Config.Params} {s : State} {i : Instr} {rest : List Byte}
    (he : s.elp = .noLpExpected) (hd : decodeIn P.lpad (fetchBytes s) = .ok (i, rest)) :
    stepIn P s = execIn P i s := by
  simp [stepIn, elpPrecondition, he, fetchDecodeIn, hd]

theorem stepIn_of_decodeIn_error {P : Config.Params} {s : State} {e : DecodeError}
    (he : s.elp = .noLpExpected) (hd : decodeIn P.lpad (fetchBytes s) = .error e) :
    stepIn P s = decodeStop e s := by
  simp [stepIn, elpPrecondition, he, fetchDecodeIn, hd]

theorem stepIn_of_lpExpected {P : Config.Params} {s : State} (he : s.elp = .lpExpected) :
    stepIn P s = .refused .elpExpected := by
  simp [stepIn, elpPrecondition, he]

theorem step_of_decode_ok {s : State} {i : Instr} {rest : List Byte} (he : s.elp = .noLpExpected)
    (hd : decode (fetchBytes s) = .ok (i, rest)) : step s = exec i s := by
  rw [step_eq_stepIn, exec_eq_execIn]
  exact stepIn_of_decodeIn_ok he hd

theorem step_of_decode_error {s : State} {e : DecodeError} (he : s.elp = .noLpExpected)
    (hd : decode (fetchBytes s) = .error e) : step s = decodeStop e s := by
  rw [step_eq_stepIn]
  exact stepIn_of_decodeIn_error he hd

/-- Settles O53, from the two ends a step can have before any instruction runs and the one where it runs. -/
theorem configuredStepRunsDecodedInstruction : Obligations.ConfiguredStepRunsDecodedInstruction := fun _ _ =>
  ⟨fun _ _ he hd => stepIn_of_decodeIn_ok he hd, stepIn_of_lpExpected⟩

/-- Settles O5, the default case of `stepIn_of_decodeIn_ok`. -/
theorem stepRunsDecodedInstruction : Obligations.StepRunsDecodedInstruction :=
  fun _ _ _ he hd => step_of_decode_ok he hd

/-! ### The window of bytes at the pc, and the length rule (R130) -/

theorem window_of_read_none {m : Memory} {a : Word} (h : m.read a.toNat = none) (n : Nat) : m.window a n = [] := by
  cases n with
  | zero => rfl
  | succ n => simp [Memory.window, h]

theorem window_of_read_some {m : Memory} {a : Word} {b : Byte} (h : m.read a.toNat = some b) (n : Nat) :
    m.window a (n + 1) = b :: m.window (a + 1#64) n := by
  simp [Memory.window, h]

/-- The low bits of a parcel are those of its first byte (R103). -/
theorem extractLsb'_parcel (b0 b1 : Byte) {k : Nat} (hk : k ≤ 8) :
    (parcel b0 b1).extractLsb' 0 k = b0.extractLsb' 0 k := by
  ext i hi
  simp only [parcel, BitVec.getElem_extractLsb', BitVec.getLsbD_cast, BitVec.getLsbD_append, Nat.zero_add,
    show i < 8 by omega, if_true]

theorem isLong_parcel (b0 b1 : Byte) : isLong (parcel b0 b1) = (b0.extractLsb' 0 2 == 3#2) := by
  rw [isLong, extractLsb'_parcel b0 b1 (by decide)]

theorem isTooLong_parcel (b0 b1 : Byte) : isTooLong (parcel b0 b1) = (b0.extractLsb' 0 5 == 31#5) := by
  rw [isTooLong, extractLsb'_parcel b0 b1 (by decide)]

/-- `h[4:2]` decides whether all of the five lowest bits are set. -/
theorem extractLsb'_five_ne {b : Byte} (h : b.extractLsb' 2 3 ≠ 7#3) : b.extractLsb' 0 5 ≠ 31#5 := by
  intro h5
  apply h
  calc b.extractLsb' 2 3 = (b.extractLsb' 0 5).extractLsb' 2 3 := by ext i hi; simp
    _ = 7#3 := by rw [h5]; rfl

/-- A first parcel that announces 32 bits with fewer than two bytes after it is cut short (R106, R130). -/
theorem decodeIn_truncated (L : Config.LpadCode) {b0 b1 : Byte} {rest : List Byte} (hl : isLong (parcel b0 b1) = true)
    (ht : isTooLong (parcel b0 b1) = false) (hr : rest.length < 2) :
    decodeIn L (b0 :: b1 :: rest) = .error .truncated := by
  simp only [decodeIn, hl, ht, if_true, Bool.false_eq_true, if_false]
  match rest, hr with
  | [], _ => rfl
  | [_], _ => rfl

/-- Where one of the two bytes from `a` on has no value, the window there has fewer than two bytes. -/
theorem length_window_two_lt {m : Memory} {a : Word}
    (h : m.read a.toNat = none ∨ m.read (a + 1#64).toNat = none) : (m.window a 2).length < 2 := by
  cases h0 : m.read a.toNat with
  | none => simp [window_of_read_none h0]
  | some b =>
    have h1 : m.read (a + 1#64).toNat = none := h.resolve_left (by simp [h0])
    simp [window_of_read_some h0, window_of_read_none h1]

theorem step_of_decode_truncated {s : State} (he : s.elp = .noLpExpected)
    (hd : decode (fetchBytes s) = .error .truncated) : step s = .fault (.fetchOutsideText s.pc) :=
  step_of_decode_error he hd

/-- Settles O8: in each clause the window at the pc is shorter than the length rule asks for. -/
theorem stepStuckOutsideText : Obligations.StepStuckOutsideText := by
  intro s he
  refine ⟨fun h0 => ?_, fun b0 h0 h1 => ?_, fun b0 b1 h0 h1 hlong hshort hmissing => ?_⟩ <;>
    refine step_of_decode_truncated he ?_
  · rw [fetchBytes, window_of_read_none h0]
    rfl
  · rw [fetchBytes, window_of_read_some h0, window_of_read_none h1]
    rfl
  · have h2 : (s.mem.window (s.pc + 1#64 + 1#64) 2).length < 2 :=
      length_window_two_lt (by simpa [BitVec.add_assoc] using hmissing)
    rw [fetchBytes, window_of_read_some h0, window_of_read_some h1]
    exact decodeIn_truncated lpadDefault (by simp [isLong_parcel, hlong])
      (by simpa [isTooLong_parcel] using extractLsb'_five_ne hshort) h2

end Sys2Proof.Proofs

/-! ## The access check and the six CSR instructions, under every configuration -/

namespace Sys2Proof.Proofs
open Sys2Proof.Machine

/-! ### The access check (R139, R162, R170) -/

/-- At the number of a CSR other than `ssp` the access table decides. -/
theorem csrAccessIn_csrNumIn {P : Config.Params} (hd : distinctNums P) {c : Csr} (hc : c ≠ .ssp) (s : State) :
    csrAccessIn P (csrNumIn P c) s =
      match P.csrPrivOk c s.priv s.virt with
      | .ok => .ok c
      | .illegal => .illegal
      | .refuse => .refuse .guestCsrAccess := by
  rw [csrAccessIn, csrTargetIn_csrNumIn hd c]
  cases c with
  | ssp => exact absurd rfl hc
  | sstatus | vsstatus | mstatus | menvcfg | henvcfg | mseccfg | dcsr => rfl

/-- At the number of `ssp` the gate of R170 alone decides. -/
theorem csrAccessIn_sspCsrAddr {P : Config.Params} (hd : distinctNums P) (s : State) :
    csrAccessIn P P.sspCsrAddr s = if sspPasses s then .ok .ssp else .illegal := by
  have ht : csrTargetIn P P.sspCsrAddr = .present .ssp := csrTargetIn_csrNumIn hd .ssp
  rw [csrAccessIn, ht]

/-- What a number that is none of the eight names (R28, R33, R139). -/
theorem csrTargetIn_of_ne {P : Config.Params} {a : CsrNum} (h : ∀ c : Csr, a ≠ csrNumIn P c) :
    csrTargetIn P a = if a = menvcfghAddr ∨ a = henvcfghAddr then .absent else .notInSpec := by
  simp only [csrTargetIn, h, if_false]
  by_cases hm : a = menvcfghAddr
  · simp [hm]
  · simp [hm]

/-- Settles O55: what the number names, then the table, or at `ssp` the gate. -/
theorem configuredAccessCheck : Obligations.ConfiguredAccessCheck := by
  intro P s hd
  refine ⟨fun c hc => ?_, fun hM => ?_, fun hM => ?_, fun a ha => ?_⟩
  · rw [csrAccessIn_csrNumIn hd hc]
    exact ⟨fun hp => by rw [hp], fun hp => by rw [hp], fun hp => by rw [hp]⟩
  · rw [csrAccessIn_sspCsrAddr hd, if_pos ((sspPasses_iff s).mpr (.inl hM))]
  · rw [csrAccessIn_sspCsrAddr hd]
    simp only [sspPasses_iff, hM, false_or]
  · rw [csrAccessIn, csrTargetIn_of_ne ha]
    by_cases hm : a = menvcfghAddr ∨ a = henvcfghAddr
    · simp [hm]
    · simp [hm]

/-! ### A CSR instruction ends as its access check answers (R161, R180, R234) -/

theorem csrInstructionIn_of_illegal {P : Config.Params} {a : CsrNum} {s : State} (h : csrAccessIn P a s = .illegal)
    (w : IWord) (rd : Reg) (reads writes : Bool) (f : Word → Word) :
    csrInstructionIn P w a rd reads writes f s =
      .fault (.illegalInstruction illegalInsnCode (Config.illegalTval w) s.pc) := by
  rw [csrInstructionIn, h]
  rfl

theorem csrInstructionIn_of_refuse {P : Config.Params} {a : CsrNum} {s : State} {r : Refusal}
    (h : csrAccessIn P a s = .refuse r) (w : IWord) (rd : Reg) (reads writes : Bool) (f : Word → Word) :
    csrInstructionIn P w a rd reads writes f s = .refused r := by
  rw [csrInstructionIn, h]

theorem execIn_csrrw (P : Config.Params) (rd : Reg) (csr : CsrNum) (rs1 : Reg) (s : State) :
    execIn P (.csrrw rd csr rs1) s =
      csrInstructionIn P (csrWord csr rs1 1 rd) csr rd (rd != 0#5) true (fun _ => s.x rs1) s := rfl

theorem execIn_csrrs (P : Config.Params) (rd : Reg) (csr : CsrNum) (rs1 : Reg) (s : State) :
    execIn P (.csrrs rd csr rs1) s =
      csrInstructionIn P (csrWord csr rs1 2 rd) csr rd true (rs1 != 0#5) (fun t => t ||| s.x rs1) s := rfl

theorem execIn_csrrc (P : Config.Params) (rd : Reg) (csr : CsrNum) (rs1 : Reg) (s : State) :
    execIn P (.csrrc rd csr rs1) s =
      csrInstructionIn P (csrWord csr rs1 3 rd) csr rd true (rs1 != 0#5) (fun t => t &&& ~~~(s.x rs1)) s := rfl

theorem execIn_csrrwi (P : Config.Params) (rd : Reg) (csr : CsrNum) (uimm : BitVec 5) (s : State) :
    execIn P (.csrrwi rd csr uimm) s =
      csrInstructionIn P (csrWord csr uimm 5 rd) csr rd (rd != 0#5) true (fun _ => zextUimm uimm) s := rfl

theorem execIn_csrrsi (P : Config.Params) (rd : Reg) (csr : CsrNum) (uimm : BitVec 5) (s : State) :
    execIn P (.csrrsi rd csr uimm) s =
      csrInstructionIn P (csrWord csr uimm 6 rd) csr rd true (uimm != 0#5) (fun t => t ||| zextUimm uimm) s := rfl

theorem execIn_csrrci (P : Config.Params) (rd : Reg) (csr : CsrNum) (uimm : BitVec 5) (s : State) :
    execIn P (.csrrci rd csr uimm) s =
      csrInstructionIn P (csrWord csr uimm 7 rd) csr rd true (uimm != 0#5) (fun t => t &&& ~~~(zextUimm uimm)) s := rfl

/-- Each of the six forms is the shared CSR instruction with its own word. -/
theorem execIn_csrForm {rd : Reg} {csr : CsrNum} {src : BitVec 5} {p : Instr × IWord} (hp : p ∈ csrForms rd csr src)
    (P : Config.Params) (s : State) :
    ∃ (reads writes : Bool) (f : Word → Word), execIn P p.1 s = csrInstructionIn P p.2 csr rd reads writes f s := by
  simp only [csrForms, List.mem_cons, List.not_mem_nil, or_false] at hp
  obtain rfl | rfl | rfl | rfl | rfl | rfl := hp
  · exact ⟨_, _, _, execIn_csrrw ..⟩
  · exact ⟨_, _, _, execIn_csrrs ..⟩
  · exact ⟨_, _, _, execIn_csrrc ..⟩
  · exact ⟨_, _, _, execIn_csrrwi ..⟩
  · exact ⟨_, _, _, execIn_csrrsi ..⟩
  · exact ⟨_, _, _, execIn_csrrci ..⟩

/-- The registers after the register write of a CSR instruction, which discards the value read only for `rd = x0`. -/
theorem x_setXIf {reads : Bool} {rd : Reg} (hr : reads = false → rd = 0#5) (v : Word) (s : State) (r : Reg) :
    (setXIf reads rd v s).x r = if r = rd ∧ rd ≠ 0#5 then v else s.x r := by
  cases reads with
  | true => exact x_setX s rd r v
  | false => simp [setXIf, hr rfl]

/-- A CSR write changes no general register. -/
theorem x_csrWriteIf (writes : Bool) (c : Csr) (v : Word) (s : State) (r : Reg) :
    (csrWriteIf writes c v s).x r = s.x r := by
  simp [State.x]

/-- The end of a CSR instruction: what it leaves, `u` being the state after its write access. -/
theorem csrResult_setXIf {reads : Bool} {rd : Reg} (hr : reads = false → rd = 0#5) (writes : Bool) (c : Csr)
    (new old : Word) (s : State) :
    csrResult s (csrWriteIf writes c new s) rd old
      { setXIf reads rd old (csrWriteIf writes c new s) with pc := s.pc + 4#64 } := by
  have hx : ∀ r : Reg, (setXIf reads rd old (csrWriteIf writes c new s)).x r =
      if r = rd ∧ rd ≠ 0#5 then old else s.x r := fun r => by rw [x_setXIf hr, x_csrWriteIf]
  refine ⟨rfl, fun hrd => ?_, x_zero _, fun r hne => ?_, ?_, ?_, ?_⟩
  · exact (hx rd).trans (if_pos ⟨rfl, hrd⟩)
  · exact (hx r).trans (if_neg fun h => hne h.1)
  · simp [sameMode]
  · simp [sameMemory]
  · simp [sameButRegsPc, sameMode, sameStoredCsrs, sameMemory]

/-- A CSR instruction whose check passes completes, if its next pc is below 2^64. -/
theorem csrInstructionIn_completes {P : Config.Params} {a : CsrNum} {s : State} {c : Csr}
    (h : csrAccessIn P a s = .ok c) (hpc : s.pc.toNat + 4 < 2 ^ 64) (w : IWord) {rd : Reg} {reads : Bool}
    (hr : reads = false → rd = 0#5) (writes : Bool) (f : Word → Word) :
    ∃ t, csrInstructionIn P w a rd reads writes f s = .next t ∧
      csrResult s (csrWriteIf writes c (f (csrRead c s)) s) rd (csrRead c s) t :=
  ⟨_, (csrInstructionIn_next_iff ..).mpr ⟨c, h, hpc, rfl⟩, csrResult_setXIf hr ..⟩

/-- The write access of the set and clear forms, which a zero operand field takes away (R160). -/
theorem csrWriteIf_bne_zero (src : BitVec 5) (c : Csr) (v : Word) (s : State) :
    csrWriteIf (src != 0#5) c v s = if src = 0#5 then s else csrWrite c v s := by
  by_cases hsrc : src = 0#5 <;> simp [csrWriteIf, hsrc]

theorem zextUimm_eq_ofNat (uimm : BitVec 5) : zextUimm uimm = BitVec.ofNat 64 uimm.toNat :=
  BitVec.eq_of_toNat_eq (by simp [zextUimm])

/-- Settles O56: the six forms are one instruction, and it ends as the access check answers. -/
theorem configuredCsrInstructions : Obligations.ConfiguredCsrInstructions := by
  intro P s rd csr src
  refine ⟨fun p hp => ?_, fun c hc hpc => ?_⟩
  · obtain ⟨reads, writes, f, hx⟩ := execIn_csrForm hp P s
    rw [hx]
    exact ⟨fun h => csrInstructionIn_of_illegal h .., fun r h => csrInstructionIn_of_refuse h ..⟩
  · have hread : (rd != 0#5) = false → rd = 0#5 := by simp
    have halways : true = false → rd = 0#5 := nofun
    simp only [execIn_csrrw, execIn_csrrs, execIn_csrrc, execIn_csrrwi, execIn_csrrsi, execIn_csrrci, ← zextUimm_eq_ofNat,
      ← csrWriteIf_bne_zero]
    exact ⟨csrInstructionIn_completes hc hpc _ hread true _, csrInstructionIn_completes hc hpc _ halways _ _,
      csrInstructionIn_completes hc hpc _ halways _ _, csrInstructionIn_completes hc hpc _ hread true _,
      csrInstructionIn_completes hc hpc _ halways _ _, csrInstructionIn_completes hc hpc _ halways _ _⟩

end Sys2Proof.Proofs

/-! ## The rows of the opcode table and the round trip through memory -/

namespace Sys2Proof.Proofs
open Sys2Proof.Machine

/-! ### The eight rows that no configuration changes (R137) -/

/-- The first row of the table other than `lpad`'s that a word fits (R137). -/
def decodeOtherRows (w : IWord) : Option Instr :=
  if fits w csrMask (csrMatch 1) then some (.csrrw (fieldRd w) (fieldCsr w) (fieldRs1 w))
  else if fits w csrMask (csrMatch 2) then some (.csrrs (fieldRd w) (fieldCsr w) (fieldRs1 w))
  else if fits w csrMask (csrMatch 3) then some (.csrrc (fieldRd w) (fieldCsr w) (fieldRs1 w))
  else if fits w csrMask (csrMatch 5) then some (.csrrwi (fieldRd w) (fieldCsr w) (fieldRs1 w))
  else if fits w csrMask (csrMatch 6) then some (.csrrsi (fieldRd w) (fieldCsr w) (fieldRs1 w))
  else if fits w csrMask (csrMatch 7) then some (.csrrci (fieldRd w) (fieldCsr w) (fieldRs1 w))
  else if fits w mopRMask mopRMatch then some (.mopRN (fieldMopR w) (fieldRd w) (fieldRs1 w))
  else if fits w mopRRMask mopRRMatch then some (.mopRRN (fieldMopRR w) (fieldRd w) (fieldRs1 w) (fieldRs2 w))
  else none

/-- The last row of the table: `lpad` under the pattern `L` (R135). -/
def decodeLpadRow (L : Config.LpadCode) (w : IWord) : Option Instr :=
  if fits w L.mask L.pattern then some (.lpad (w.extractLsb' 12 20)) else none

theorem ite_some_or {α : Type} (b : Bool) (a : α) (x y : Option α) :
    (if b then some a else x).or y = if b then some a else x.or y := by
  cases b <;> rfl

theorem ite_some_eq_none_iff {α : Type} (b : Bool) (a : α) (x : Option α) :
    (if b then some a else x) = none ↔ b = false ∧ x = none := by
  cases b <;> simp

/-- The decoder reads the eight rows first and the row of `lpad` where none of them fits (R137). -/
theorem decodeWordIn_eq (L : Config.LpadCode) (w : IWord) :
    decodeWordIn L w = (decodeOtherRows w).or (decodeLpadRow L w) := by
  simp only [decodeOtherRows, ite_some_or, Option.none_or]
  rfl

/-- The eight rows give no instruction exactly where none of them fits. -/
theorem decodeOtherRows_eq_none_iff (w : IWord) :
    decodeOtherRows w = none ↔ ∀ p ∈ wordRows.take 8, fits w p.1 p.2 = false := by
  simp [decodeOtherRows, ite_some_eq_none_iff, wordRows, wordRowsIn]

theorem decodeWordIn_of_decodeOtherRows {w : IWord} {i : Instr} (h : decodeOtherRows w = some i)
    (L : Config.LpadCode) : decodeWordIn L w = some i := by
  rw [decodeWordIn_eq, h, Option.some_or]

/-- Settles O54: the eight rows come first and do not depend on the pattern. -/
theorem configuredLpadPattern : Obligations.ConfiguredLpadPattern := by
  refine fun L w => ⟨fun p hp hf => ?_, fun hno => ?_⟩
  · have hsome : decodeOtherRows w ≠ none := fun hn => by
      simp [(decodeOtherRows_eq_none_iff w).mp hn p hp] at hf
    obtain ⟨i, hi⟩ := Option.ne_none_iff_exists'.mp hsome
    rw [decodeWord, decodeWordIn_of_decodeOtherRows hi, decodeWordIn_of_decodeOtherRows hi]
  · rw [decodeWordIn_eq, (decodeOtherRows_eq_none_iff w).mpr hno, Option.none_or, decodeLpadRow]

/-! ### Which rows an encoded word fits (R131 to R135) -/

theorem csrWord_and_csrMask (a : CsrNum) (src : BitVec 5) (f : BitVec 3) (rd : Reg) :
    csrWord a src f rd &&& csrMask = csrMatch f := by
  refine BitVec.eq_of_getLsbD_eq fun i hi => ?_
  simp only [csrWord, csrMask, csrMatch, BitVec.getLsbD_and, BitVec.getLsbD_cast, BitVec.getLsbD_append]
  interval_cases i <;> simp

/-- The bits above `rs1` of a MOP.R word (R133). -/
def mopRHigh (n : BitVec 5) : BitVec 12 :=
  (1#1 ++ n.extractLsb' 4 1 ++ 0#2 ++ n.extractLsb' 2 2 ++ 7#4 ++ n.extractLsb' 0 2).cast rfl

/-- The bits above `rs1` of a MOP.RR word (R133). -/
def mopRRHigh (n : BitVec 3) (rs2 : Reg) : BitVec 12 :=
  (1#1 ++ n.extractLsb' 2 1 ++ 0#2 ++ n.extractLsb' 0 2 ++ 1#1 ++ rs2).cast rfl

/-- A MOP.R word has the format of a CSR word, with the funct3 that no CSR instruction has. -/
theorem mopRWord_eq_csrWord (n : BitVec 5) (rs1 rd : Reg) : mopRWord n rs1 rd = csrWord (mopRHigh n) rs1 4#3 rd := by
  refine BitVec.eq_of_getLsbD_eq fun i hi => ?_
  simp only [mopRWord, mopRHigh, csrWord, BitVec.getLsbD_cast, BitVec.getLsbD_append]

theorem mopRRWord_eq_csrWord (n : BitVec 3) (rs2 rs1 rd : Reg) :
    mopRRWord n rs2 rs1 rd = csrWord (mopRRHigh n rs2) rs1 4#3 rd := by
  refine BitVec.eq_of_getLsbD_eq fun i hi => ?_
  simp only [mopRRWord, mopRRHigh, csrWord, BitVec.getLsbD_cast, BitVec.getLsbD_append]

theorem mopRWord_and_mopRMask (n : BitVec 5) (rs1 rd : Reg) : mopRWord n rs1 rd &&& mopRMask = mopRMatch := by
  refine BitVec.eq_of_getLsbD_eq fun i hi => ?_
  simp only [mopRWord, mopRMask, mopRMatch, BitVec.getLsbD_and, BitVec.getLsbD_cast, BitVec.getLsbD_append]
  interval_cases i <;> simp

theorem mopRRWord_and_mopRRMask (n : BitVec 3) (rs2 rs1 rd : Reg) :
    mopRRWord n rs2 rs1 rd &&& mopRRMask = mopRRMatch := by
  refine BitVec.eq_of_getLsbD_eq fun i hi => ?_
  simp only [mopRRWord, mopRRMask, mopRRMatch, BitVec.getLsbD_and, BitVec.getLsbD_cast, BitVec.getLsbD_append]
  interval_cases i <;> simp

theorem lpadWord_and_lpadMask (l : BitVec 20) : lpadWord l &&& lpadMask = lpadMatch := by
  refine BitVec.eq_of_getLsbD_eq fun i hi => ?_
  simp only [lpadWord, lpadMask, lpadMatch, BitVec.getLsbD_and, BitVec.getLsbD_cast, BitVec.getLsbD_append]
  interval_cases i <;> simp

/-! ### The operand fields of an encoded word (R136) -/

theorem fieldRd_csrWord (a : CsrNum) (src : BitVec 5) (f : BitVec 3) (rd : Reg) :
    fieldRd (csrWord a src f rd) = rd := by
  refine BitVec.eq_of_getLsbD_eq fun i hi => ?_
  simp only [fieldRd, csrWord, BitVec.getLsbD_extractLsb', BitVec.getLsbD_cast, BitVec.getLsbD_append]
  interval_cases i <;> rfl

theorem fieldRs1_csrWord (a : CsrNum) (src : BitVec 5) (f : BitVec 3) (rd : Reg) :
    fieldRs1 (csrWord a src f rd) = src := by
  refine BitVec.eq_of_getLsbD_eq fun i hi => ?_
  simp only [fieldRs1, csrWord, BitVec.getLsbD_extractLsb', BitVec.getLsbD_cast, BitVec.getLsbD_append]
  interval_cases i <;> rfl

theorem fieldCsr_csrWord (a : CsrNum) (src : BitVec 5) (f : BitVec 3) (rd : Reg) :
    fieldCsr (csrWord a src f rd) = a := by
  refine BitVec.eq_of_getLsbD_eq fun i hi => ?_
  simp only [fieldCsr, csrWord, BitVec.getLsbD_extractLsb', BitVec.getLsbD_cast, BitVec.getLsbD_append]
  interval_cases i <;> rfl

theorem fieldMopR_mopRWord (n : BitVec 5) (rs1 rd : Reg) :
    fieldMopR (mopRWord n rs1 rd) = n := by
  refine BitVec.eq_of_getLsbD_eq fun i hi => ?_
  simp only [fieldMopR, mopRWord, BitVec.getLsbD_extractLsb', BitVec.getLsbD_cast, BitVec.getLsbD_append]
  interval_cases i <;> rfl

theorem fieldMopRR_mopRRWord (n : BitVec 3) (rs2 rs1 rd : Reg) :
    fieldMopRR (mopRRWord n rs2 rs1 rd) = n := by
  refine BitVec.eq_of_getLsbD_eq fun i hi => ?_
  simp only [fieldMopRR, mopRRWord, BitVec.getLsbD_extractLsb', BitVec.getLsbD_cast, BitVec.getLsbD_append]
  interval_cases i <;> rfl

theorem fieldRs2_mopRRWord (n : BitVec 3) (rs2 rs1 rd : Reg) :
    fieldRs2 (mopRRWord n rs2 rs1 rd) = rs2 := by
  refine BitVec.eq_of_getLsbD_eq fun i hi => ?_
  simp only [fieldRs2, mopRRWord, BitVec.getLsbD_extractLsb', BitVec.getLsbD_cast, BitVec.getLsbD_append]
  interval_cases i <;> rfl

theorem fieldLpl_lpadWord (l : BitVec 20) :
    fieldLpl (lpadWord l) = l := by
  refine BitVec.eq_of_getLsbD_eq fun i hi => ?_
  simp only [fieldLpl, lpadWord, BitVec.getLsbD_extractLsb', BitVec.getLsbD_cast, BitVec.getLsbD_append]
  interval_cases i <;> rfl

/-- The constant lowest bit of an odd `n` is what the field of `c.mop.n` puts back (R136). -/
theorem fieldCmop_cmopHalf {n : BitVec 4} (h : oddMop n = true) : fieldCmop (cmopHalf n) = n := by
  revert n
  decide

/-! ### Each encoded word decodes to its instruction -/

/-- Words of the CSR format differ in funct3 alone as far as the CSR rows go. -/
theorem fits_csrWord (a : CsrNum) (src : BitVec 5) (f g : BitVec 3) (rd : Reg) :
    fits (csrWord a src f rd) csrMask (csrMatch g) = (f == g) := by
  have hinj : ∀ f g : BitVec 3, (csrMatch f == csrMatch g) = (f == g) := by decide
  rw [fits, csrWord_and_csrMask, hinj]

/-- A word does not fit a row whose match differs from it in a bit of the mask. -/
theorem fits_eq_false_of_bit {w mask pattern : IWord} (i : Nat) (hm : mask.getLsbD i = true)
    (hne : w.getLsbD i ≠ pattern.getLsbD i) : fits w mask pattern = false := by
  refine Bool.eq_false_iff.mpr fun hf => hne ?_
  have hb := congrArg (·.getLsbD i) (beq_iff_eq.mp hf)
  simpa [hm] using hb

/-- Bit 25 tells a MOP.RR word from a MOP.R word (R133). -/
theorem not_fits_mopRRWord (n : BitVec 3) (rs2 rs1 rd : Reg) :
    fits (mopRRWord n rs2 rs1 rd) mopRMask mopRMatch = false := by
  have hbit : (mopRRWord n rs2 rs1 rd).getLsbD 25 = true := by
    simp only [mopRRWord, BitVec.getLsbD_cast, BitVec.getLsbD_append]
    rfl
  exact fits_eq_false_of_bit 25 rfl (by rw [hbit]; decide)

/-- Bit 2 tells the opcode of an `lpad` word from the opcode SYSTEM of all other rows (R131, R133, R135). -/
theorem decodeOtherRows_lpadWord (l : BitVec 20) : decodeOtherRows (lpadWord l) = none := by
  have hrows : (wordRows.take 8).all (fun p => p.1.getLsbD 2 && !p.2.getLsbD 2) = true := by decide
  have hbit : (lpadWord l).getLsbD 2 = true := by
    simp only [lpadWord, BitVec.getLsbD_cast, BitVec.getLsbD_append]
    rfl
  refine (decodeOtherRows_eq_none_iff _).mpr fun p hp => ?_
  obtain ⟨hmask, hmatch⟩ := (Bool.and_eq_true ..).mp (List.all_eq_true.mp hrows p hp)
  exact fits_eq_false_of_bit 2 hmask (by rw [hbit, (Bool.not_eq_eq_eq_not ..).mp hmatch]; decide)

theorem decodeWord_csrForm {rd : Reg} {csr : CsrNum} {src : BitVec 5} {p : Instr × IWord}
    (hp : p ∈ csrForms rd csr src) : decodeWord p.2 = some p.1 := by
  refine decodeWordIn_of_decodeOtherRows ?_ _
  simp only [csrForms, List.mem_cons, List.not_mem_nil, or_false] at hp
  obtain rfl | rfl | rfl | rfl | rfl | rfl := hp <;>
    simp [decodeOtherRows, fits_csrWord, fieldRd_csrWord, fieldRs1_csrWord, fieldCsr_csrWord]

theorem decodeWord_mopRWord (n : BitVec 5) (rd rs1 : Reg) : decodeWord (mopRWord n rs1 rd) = some (.mopRN n rd rs1) := by
  have hfits : fits (mopRWord n rs1 rd) mopRMask mopRMatch = true := beq_iff_eq.mpr (mopRWord_and_mopRMask n rs1 rd)
  have hn := fieldMopR_mopRWord n rs1 rd
  refine decodeWordIn_of_decodeOtherRows ?_ _
  rw [mopRWord_eq_csrWord] at hfits hn ⊢
  simp [decodeOtherRows, fits_csrWord, hfits, hn, fieldRd_csrWord, fieldRs1_csrWord]

theorem decodeWord_mopRRWord (n : BitVec 3) (rd rs1 rs2 : Reg) :
    decodeWord (mopRRWord n rs2 rs1 rd) = some (.mopRRN n rd rs1 rs2) := by
  have hfits : fits (mopRRWord n rs2 rs1 rd) mopRRMask mopRRMatch = true :=
    beq_iff_eq.mpr (mopRRWord_and_mopRRMask n rs2 rs1 rd)
  have hnot := not_fits_mopRRWord n rs2 rs1 rd
  have hn := fieldMopRR_mopRRWord n rs2 rs1 rd
  have hrs2 := fieldRs2_mopRRWord n rs2 rs1 rd
  refine decodeWordIn_of_decodeOtherRows ?_ _
  rw [mopRRWord_eq_csrWord] at hfits hnot hn hrs2 ⊢
  simp [decodeOtherRows, fits_csrWord, hfits, hnot, hn, hrs2, fieldRd_csrWord, fieldRs1_csrWord]

theorem decodeWord_lpadWord (l : BitVec 20) : decodeWord (lpadWord l) = some (.lpad l) := by
  have hfits : fits (lpadWord l) lpadMask lpadMatch = true := beq_iff_eq.mpr (lpadWord_and_lpadMask l)
  have hl : (lpadWord l).extractLsb' 12 20 = l := fieldLpl_lpadWord l
  rw [decodeWord, decodeWordIn_eq, decodeOtherRows_lpadWord, Option.none_or, decodeLpadRow, hl]
  exact if_pos hfits

theorem decodeHalf_cmopHalf {n : BitVec 4} (h : oddMop n = true) : decodeHalf (cmopHalf n) = some (.cmopN n) := by
  have hfits : fits (cmopHalf n) cmopMask cmopMatch = true := by
    revert n
    decide
  rw [decodeHalf, if_pos hfits, fieldCmop_cmopHalf h]

/-! ### From words to bytes (R103, R130) -/

theorem parcel_parcelBytes (h : Half) : parcel (h.extractLsb' 0 8) (h.extractLsb' 8 8) = h := by
  refine BitVec.eq_of_getLsbD_eq fun i hi => ?_
  simp only [parcel, BitVec.getLsbD_cast, BitVec.getLsbD_append, BitVec.getLsbD_extractLsb']
  interval_cases i <;> rfl

theorem joinParcels_parcelsOf (w : IWord) : joinParcels (w.extractLsb' 0 16) (w.extractLsb' 16 16) = w := by
  refine BitVec.eq_of_getLsbD_eq fun i hi => ?_
  simp only [joinParcels, BitVec.getLsbD_cast, BitVec.getLsbD_append, BitVec.getLsbD_extractLsb']
  interval_cases i <;> rfl

/-- The length rule holds of every instruction's encoding (R130). -/
theorem lengthRule (i : Instr) : Laws.LengthRule.Statement i := by
  cases i with
  | csrrw rd a r => exact Laws.LengthRule.csrrw rd a r
  | csrrs rd a r => exact Laws.LengthRule.csrrs rd a r
  | csrrc rd a r => exact Laws.LengthRule.csrrc rd a r
  | csrrwi rd a u => exact Laws.LengthRule.csrrwi rd a u
  | csrrsi rd a u => exact Laws.LengthRule.csrrsi rd a u
  | csrrci rd a u => exact Laws.LengthRule.csrrci rd a u
  | mopRN n rd rs1 => exact Laws.LengthRule.mopRN n rd rs1
  | mopRRN n rd rs1 rs2 => exact Laws.LengthRule.mopRRN n rd rs1 rs2
  | cmopN n => exact Laws.LengthRule.cmopN n
  | lpad l => exact Laws.LengthRule.lpad l

/-- A first parcel that announces 32 bits is read together with the one after it (R130). -/
theorem decode_parcelBytes_long {lo : Half} (hlong : isLong lo = true) (hshort : isTooLong lo = false) (hi : Half)
    (rest : List Byte) :
    decode (parcelBytes lo ++ (parcelBytes hi ++ rest)) = orRefuse (decodeWord (joinParcels lo hi)) rest := by
  simp only [decode, parcelBytes, List.cons_append, List.nil_append, decodeIn, parcel_parcelBytes, hlong, hshort, if_true,
    Bool.false_eq_true, if_false]
  rfl

/-- A first parcel that announces 16 bits is an instruction by itself (R130). -/
theorem decode_parcelBytes_short {h : Half} (hlong : isLong h = false) (hshort : isTooLong h = false)
    (rest : List Byte) : decode (parcelBytes h ++ rest) = orRefuse (decodeHalf h) rest := by
  simp only [decode, parcelBytes, List.cons_append, List.nil_append, decodeIn, parcel_parcelBytes, hlong, hshort,
    Bool.false_eq_true, if_false]

theorem decode_of_decodeWord {i : Instr} {w : IWord} (hw : decodeWord w = some i) (he : encode i = parcelsOf w)
    (hs : i.size = 4) (rest : List Byte) : decode (encodeBytes i ++ rest) = .ok (i, rest) := by
  obtain ⟨hlong, hshort⟩ := (lengthRule i).2 (w.extractLsb' 0 16) (by rw [he]; rfl)
  have hbytes : encodeBytes i ++ rest =
      parcelBytes (w.extractLsb' 0 16) ++ (parcelBytes (w.extractLsb' 16 16) ++ rest) := by
    simp only [encodeBytes, he, parcelsOf, List.flatMap_cons, List.flatMap_nil, List.append_nil, List.append_assoc]
  rw [hbytes, decode_parcelBytes_long (by rw [hlong, hs]; rfl) hshort, joinParcels_parcelsOf, hw, orRefuse]

theorem decode_of_decodeHalf {i : Instr} {h : Half} (hh : decodeHalf h = some i) (he : encode i = [h])
    (hs : i.size = 2) (rest : List Byte) : decode (encodeBytes i ++ rest) = .ok (i, rest) := by
  obtain ⟨hlong, hshort⟩ := (lengthRule i).2 h (by rw [he]; rfl)
  have hbytes : encodeBytes i ++ rest = parcelBytes h ++ rest := by
    simp only [encodeBytes, he, List.flatMap_cons, List.flatMap_nil, List.append_nil]
  rw [hbytes, decode_parcelBytes_short (by rw [hlong, hs]; rfl) hshort, hh, orRefuse]

theorem decode_csrForm (rd : Reg) (csr : CsrNum) (src : BitVec 5) {p : Instr × IWord}
    (hp : p ∈ csrForms rd csr src) (rest : List Byte) : decode (encodeBytes p.1 ++ rest) = .ok (p.1, rest) := by
  obtain ⟨he, hs⟩ : encode p.1 = parcelsOf p.2 ∧ p.1.size = 4 := by
    simp only [csrForms, List.mem_cons, List.not_mem_nil, or_false] at hp
    obtain rfl | rfl | rfl | rfl | rfl | rfl := hp <;> exact ⟨rfl, rfl⟩
  exact decode_of_decodeWord (decodeWord_csrForm hp) he hs rest

/-- Decoding an instruction's bytes gives it back, with the bytes after it. -/
theorem decode_encodeBytes_append {i : Instr} (h : i.wellFormed = true) (rest : List Byte) :
    decode (encodeBytes i ++ rest) = .ok (i, rest) := by
  cases i with
  | csrrw rd csr rs1 => exact decode_csrForm rd csr rs1 (p := (_, csrWord csr rs1 1 rd)) (by simp [csrForms]) rest
  | csrrs rd csr rs1 => exact decode_csrForm rd csr rs1 (p := (_, csrWord csr rs1 2 rd)) (by simp [csrForms]) rest
  | csrrc rd csr rs1 => exact decode_csrForm rd csr rs1 (p := (_, csrWord csr rs1 3 rd)) (by simp [csrForms]) rest
  | csrrwi rd csr uimm => exact decode_csrForm rd csr uimm (p := (_, csrWord csr uimm 5 rd)) (by simp [csrForms]) rest
  | csrrsi rd csr uimm => exact decode_csrForm rd csr uimm (p := (_, csrWord csr uimm 6 rd)) (by simp [csrForms]) rest
  | csrrci rd csr uimm => exact decode_csrForm rd csr uimm (p := (_, csrWord csr uimm 7 rd)) (by simp [csrForms]) rest
  | mopRN n rd rs1 => exact decode_of_decodeWord (decodeWord_mopRWord n rd rs1) rfl rfl rest
  | mopRRN n rd rs1 rs2 => exact decode_of_decodeWord (decodeWord_mopRRWord n rd rs1 rs2) rfl rfl rest
  | cmopN n => exact decode_of_decodeHalf (decodeHalf_cmopHalf h) rfl rfl rest
  | lpad l => exact decode_of_decodeWord (decodeWord_lpadWord l) rfl rfl rest

/-! ### An instruction in memory -/

theorem length_encodeBytes_le (i : Instr) : (encodeBytes i).length ≤ 4 := by
  rw [(lengthRule i).1]
  obtain h | h := size_eq_two_or_four i <;> omega

/-- Settles O6: the window at the pc begins with the instruction's bytes, and decoding those gives the instruction back. -/
theorem stepRunsInstructionInMemory : Obligations.StepRunsInstructionInMemory := by
  intro s i hwf he hmem
  obtain ⟨rest, hrest⟩ := window_of_reads s.mem (encodeBytes i) s.pc 4 hmem (length_encodeBytes_le i)
  have hfetch : fetchBytes s = encodeBytes i ++ rest := hrest
  exact step_of_decode_ok he (hfetch ▸ decode_encodeBytes_append hwf rest)

end Sys2Proof.Proofs

/-! ## The invariant at every step, and ELP after every instruction -/

namespace Sys2Proof.Proofs
open Sys2Proof.Machine

/-- Settles O46, the default case of `inv_execIn`. -/
theorem stepKeepsTheInvariant : Obligations.StepKeepsTheInvariant := by
  intro s t hs h
  obtain ⟨he, i, -, hx⟩ := (step_next_iff s t).mp h
  exact inv_execIn hs he (exec_eq_execIn i s ▸ hx)

/-! ### What a write of one CSR leaves of the others -/

theorem csrWrite_elp {c : Csr} (hc : c ≠ .mseccfg) (v : Word) (s : State) : (csrWrite c v s).elp = s.elp := by
  cases c with
  | mseccfg => exact absurd rfl hc
  | ssp | sstatus | vsstatus | mstatus | menvcfg | henvcfg | dcsr => simp [csrWrite]

theorem csrWrite_mseccfg {c : Csr} (hc : c ≠ .mseccfg) (v : Word) (s : State) :
    (csrWrite c v s).mseccfg = s.mseccfg := by
  cases c with
  | mseccfg => exact absurd rfl hc
  | ssp | sstatus | vsstatus | mstatus | menvcfg | henvcfg | dcsr => simp [csrWrite]

theorem csrWrite_menvcfg {c : Csr} (hc : c ≠ .menvcfg) (v : Word) (s : State) :
    (csrWrite c v s).menvcfg = s.menvcfg := by
  cases c with
  | menvcfg => exact absurd rfl hc
  | ssp | sstatus | vsstatus | mstatus | henvcfg | mseccfg | dcsr => simp [csrWrite]

/-- `henvcfg` is reached by its own writes, and by one of `menvcfg` that opens the gate of its SBCFIE (R164). -/
theorem csrWrite_henvcfg {c : Csr} (hm : c ≠ .menvcfg) (hh : c ≠ .henvcfg) (v : Word) (s : State) :
    (csrWrite c v s).henvcfg = s.henvcfg := by
  cases c with
  | menvcfg => exact absurd rfl hm
  | henvcfg => exact absurd rfl hh
  | ssp | sstatus | vsstatus | mstatus | mseccfg | dcsr => simp [csrWrite]

/-! ### The enable of the running mode (R162, R242) -/

/-- U-mode and VU-mode reach `ssp` alone (R162). -/
theorem eq_ssp_of_csrPrivOk_U {c : Csr} {v : Bool} (h : csrPrivOk c .U v = .ok) : c = .ssp := by
  cases c with
  | ssp => rfl
  | mstatus | menvcfg | mseccfg | dcsr => cases h
  | sstatus | vsstatus | henvcfg => cases v <;> cases h

/-- The table of R162 keeps every mode from the register with its own Zicfilp enable, except M-mode from `mseccfg`. -/
theorem lpActive_csrWrite {s : State} {c : Csr} (hc : c ≠ .mseccfg) (hok : csrPrivOk c s.priv s.virt = .ok) (v : Word) :
    lpActive s.priv s.virt (csrWrite c v s) = lpActive s.priv s.virt s := by
  cases hp : s.priv with
  | M => simp only [lpActive, mseccfgMFCFIE, csrWrite_mseccfg hc]
  | U =>
    rw [hp] at hok
    obtain rfl := eq_ssp_of_csrPrivOk_U hok
    cases s.virt <;> rfl
  | S =>
    rw [hp] at hok
    have hmenvcfg : c ≠ .menvcfg := by rintro rfl; cases hok
    cases hv : s.virt with
    | false => simp only [lpActive, menvcfgSFCFIE, csrWrite_menvcfg hmenvcfg]
    | true =>
      have hhenvcfg : c ≠ .henvcfg := by rintro rfl; rw [hv] at hok; cases hok
      simp only [lpActive, henvcfgSFCFIE, csrWrite_henvcfg hmenvcfg hhenvcfg]

/-! ### ELP after an instruction (R67, R178, R212) -/

/-- A write of `mseccfg` in M-mode clears ELP where it leaves Zicfilp inactive (R178). -/
theorem elpInvariant_writeMseccfg {s : State} (hM : s.priv = .M) (v : Word) : elpInvariant (writeMseccfg v s) := by
  intro hoff
  rw [writeMseccfg_priv, hM] at hoff
  have hgate : mseccfgMFCFIE (storeMseccfg v s) = false := by
    simpa only [lpActive, mseccfgMFCFIE, writeMseccfg_mseccfg] using hoff
  rw [writeMseccfg, clearElpIfInactive, if_pos ⟨hM, hgate⟩]

theorem elpInvariant_csrWrite {s : State} {c : Csr} (hs : elpInvariant s) (hok : csrPrivOk c s.priv s.virt = .ok)
    (v : Word) : elpInvariant (csrWrite c v s) := by
  by_cases hc : c = .mseccfg
  · subst hc
    have hM : s.priv = .M := by
      cases hp : s.priv with
      | M => rfl
      | S | U => rw [hp] at hok; cases hok
    exact elpInvariant_writeMseccfg hM v
  · intro hoff
    rw [csrWrite_priv, csrWrite_virt, lpActive_csrWrite hc hok] at hoff
    exact (csrWrite_elp hc v s).trans (hs hoff)

/-- The register write and the advance of the pc do not touch what the invariant of ELP speaks of. -/
theorem elpInvariant_setXIf_withPc {s : State} (hs : elpInvariant s) (reads : Bool) (rd : Reg) (old pc : Word) :
    elpInvariant { setXIf reads rd old s with pc := pc } := by
  simpa [elpInvariant, lpActive, mseccfgMFCFIE, menvcfgSFCFIE, mstatusUFCFIE, henvcfgSFCFIE, vsstatusUFCFIE] using hs

/-- Settles O49: a mode less than M reaches no enable of its own, and M-mode's write of its own clears ELP. -/
theorem instructionsKeepElpInvariant : Obligations.InstructionsKeepElpInvariant := by
  intro i s t hs h
  obtain ⟨c, rd, reads, writes, v, -, -, hok, rfl⟩ | ⟨rd, -, -, rfl⟩ | ⟨-, -, rfl⟩ := (exec_next_cases h).2
  · have hpriv : csrPrivOk c s.priv s.virt = .ok := ((csrAccess_ok_iff ..).mp hok).2.1
    refine elpInvariant_setXIf_withPc ?_ reads rd _ _
    cases writes with
    | false => exact hs
    | true => exact elpInvariant_csrWrite hs hpriv v
  · exact elpInvariant_setXIf_withPc hs true rd 0#64 _
  · exact elpInvariant_setXIf_withPc hs false 0#5 0#64 _

theorem exec_elp_of_noLpExpected {i : Instr} {s t : State} (he : s.elp = .noLpExpected) (h : exec i s = .next t) :
    t.elp = .noLpExpected := by
  obtain ⟨u, reads, rd, old, hu, rfl⟩ := nextForm_stages (execIn_next_cases (exec_eq_execIn i s ▸ h)).2
  refine (setXIf_elp ..).trans ?_
  obtain rfl | ⟨c, v, rfl⟩ := hu
  · exact he
  · exact csrWrite_elp_of_noLpExpected he c v

/-! ### The pc after an instruction (R23) -/

theorem advance_refused {n : Nat} {s : State} {r : Refusal} (h : advance n s = .refused r) :
    2 ^ 64 ≤ s.pc.toNat + n := by
  unfold advance at h
  split at h
  · cases h
  · exact Nat.le_of_not_lt ‹_›

/-- The access check has its own two grounds to refuse, neither of them the pc (R139, R162). -/
theorem csrAccessIn_ne_refuse_pcWrap (P : Config.Params) (a : CsrNum) (s : State) :
    csrAccessIn P a s ≠ .refuse .pcWrap := by
  unfold csrAccessIn
  split
  · simp
  · simp
  · split <;> simp
  · split <;> simp

theorem csrInstructionIn_pcWrap {P : Config.Params} {w : IWord} {a : CsrNum} {rd : Reg} {reads writes : Bool}
    {f : Word → Word} {s : State} (h : csrInstructionIn P w a rd reads writes f s = .refused .pcWrap) :
    2 ^ 64 ≤ s.pc.toNat + 4 := by
  unfold csrInstructionIn at h
  split at h
  · rename_i hr
    cases h
    exact absurd hr (csrAccessIn_ne_refuse_pcWrap P a s)
  · cases h
  · simpa using advance_refused h

theorem zicfissDispatch_pcWrap {m : Bool} {p : Host.Outcome State Fault Refusal} {s : State}
    (h : zicfissDispatch m p s = .refused .pcWrap) : p = .refused .pcWrap := by
  unfold zicfissDispatch at h
  split at h
  · split at h
    · cases h
    · cases h
    · exact h
  · exact h

/-- An instruction that addresses a CSR has four bytes and is the shared CSR instruction with some word and operands. -/
theorem execIn_of_csrNumOf_some {i : Instr} {a : CsrNum} (h : csrNumOf i = some a) (P : Config.Params) (s : State) :
    i.size = 4 ∧ ∃ (w : IWord) (rd : Reg) (reads writes : Bool) (f : Word → Word),
      execIn P i s = csrInstructionIn P w a rd reads writes f s := by
  cases i with
  | csrrw => cases h; exact ⟨rfl, _, _, _, _, _, execIn_csrrw ..⟩
  | csrrs => cases h; exact ⟨rfl, _, _, _, _, _, execIn_csrrs ..⟩
  | csrrc => cases h; exact ⟨rfl, _, _, _, _, _, execIn_csrrc ..⟩
  | csrrwi => cases h; exact ⟨rfl, _, _, _, _, _, execIn_csrrwi ..⟩
  | csrrsi => cases h; exact ⟨rfl, _, _, _, _, _, execIn_csrrsi ..⟩
  | csrrci => cases h; exact ⟨rfl, _, _, _, _, _, execIn_csrrci ..⟩
  | mopRN | mopRRN | cmopN | lpad => cases h

/-- Only an instruction whose next pc would pass 2^64 is refused for that. -/
theorem exec_pcWrap {i : Instr} {s : State} (h : exec i s = .refused .pcWrap) : 2 ^ 64 ≤ s.pc.toNat + i.size := by
  cases hcsr : csrNumOf i with
  | some a =>
    obtain ⟨hsize, w, rd, reads, writes, f, hx⟩ := execIn_of_csrNumOf_some hcsr defaultParams s
    rw [exec_eq_execIn, hx] at h
    rw [hsize]
    exact csrInstructionIn_pcWrap h
  | none =>
    cases i with
    | csrrw | csrrs | csrrc | csrrwi | csrrsi | csrrci => cases hcsr
    | mopRN | mopRRN =>
      have hplain := advance_refused (zicfissDispatch_pcWrap h)
      rwa [setX_pc] at hplain
    | cmopN => exact advance_refused (zicfissDispatch_pcWrap h)
    | lpad l =>
      simp only [exec, execLpad] at h
      split at h
      · cases h
      · exact advance_refused h

theorem exec_next_pc {i : Instr} {s t : State} (h : exec i s = .next t) :
    s.pc.toNat + i.size < 2 ^ 64 ∧ t.pc = s.pc + BitVec.ofNat 64 i.size := by
  obtain ⟨hlt, hform⟩ := execIn_next_cases (exec_eq_execIn i s ▸ h)
  obtain ⟨u, reads, rd, old, -, rfl⟩ := nextForm_stages hform
  exact ⟨hlt, rfl⟩

/-- Settles O41: an instruction completes only below the top of the space, where the sum of pc and size does not wrap. -/
theorem pcAdvancesBySize : Obligations.PcAdvancesBySize := by
  refine fun i s => ⟨fun t h => ?_, exec_pcWrap, fun hwrap t h => ?_⟩
  · obtain ⟨hlt, hpc⟩ := exec_next_pc h
    rw [hpc, BitVec.toNat_add, BitVec.toNat_ofNat, Nat.add_mod_mod, Nat.mod_eq_of_lt hlt]
  · exact absurd (exec_next_pc h).1 (Nat.not_lt.mpr hwrap)

end Sys2Proof.Proofs

/-! ## The bits of the CSRs: reserved positions, and the fields the two extensions introduced -/

namespace Sys2Proof.Proofs
open Sys2Proof.Machine

/-! ### Reserved positions (R69) -/

theorem and_and_not_self (x m : Word) : x &&& m &&& ~~~m = 0 := by
  rw [BitVec.and_assoc, BitVec.and_not_self]
  exact BitVec.and_zero

/-- A field merged into a value reaches no position of `r` that its mask does not hold. -/
theorem merge_and {mask r : Word} (h : mask &&& r = 0) (old new : Word) : merge old mask new &&& r = old &&& r := by
  refine BitVec.eq_of_getLsbD_eq fun i _ => ?_
  rw [BitVec.getLsbD_and, BitVec.getLsbD_and, getLsbD_merge]
  cases hr : r.getLsbD i with
  | false => simp
  | true => simp [getLsbD_false_of_and_eq_zero h hr]

/-- A read puts nothing at a reserved position: the mask of the figure leaves 0 there, and the gated bit and SSPMP stand
elsewhere. -/
theorem csrRead_reserved {c : Csr} (hc : c ≠ .ssp) (s : State) : csrRead c s &&& ~~~readMask (layoutOf c) = 0 := by
  cases c with
  | ssp => exact absurd rfl hc
  | menvcfg => exact and_and_not_self ..
  | dcsr => exact and_and_not_self ..
  | henvcfg => exact (putBit_and (by decide) (by decide) ..).trans (and_and_not_self ..)
  | mstatus => exact (putBit_and (by decide) (by decide) ..).trans (and_and_not_self ..)
  | vsstatus => exact (putBit_and (by decide) (by decide) ..).trans (and_and_not_self ..)
  | mseccfg => exact (merge_and (by decide) ..).trans (and_and_not_self ..)
  | sstatus =>
    simp only [csrRead, readSstatus, layoutOf]
    split
    · exact (putBit_and (by decide) (by decide) ..).trans (and_and_not_self ..)
    · exact (putBit_and (by decide) (by decide) ..).trans (and_and_not_self ..)

/-- Two values that agree at the positions of `r` agree at any of them. -/
theorem and_eq_of_and_eq {x y r q : Word} (h : x &&& r = y &&& r) (hq : r &&& q = q) : x &&& q = y &&& q := by
  rw [← hq, ← BitVec.and_assoc, h, BitVec.and_assoc]

/-- Settles O43: a read puts nothing at a reserved position, and no write reaches one. -/
theorem reservedPositionsReadZero : Obligations.ReservedPositionsReadZero := by
  intro s c hc
  refine ⟨csrRead_reserved hc s, ?_⟩
  rintro v _ rfl
  have hsame := sameReserved_csrWrite c v s
  exact ⟨hsame.menvcfg, hsame.henvcfg, hsame.mstatus, hsame.vsstatus, and_eq_of_and_eq hsame.mseccfg (by decide),
    hsame.dcsr⟩

/-! ### A write of a CFI field: it stores the bit, unless the gate of that bit is shut (R64) -/

/-- The mask of a figure's CFI bits meets neither its drawn-only bits nor its reserved ones. -/
structure CfiApart (l : Layout) : Prop where
  drawn : drawnMask l &&& cfiMask l = 0
  reserved : ~~~readMask l &&& cfiMask l = 0

theorem cfiApart_menvcfg : CfiApart menvcfgLayout := ⟨by decide, by decide⟩
theorem cfiApart_mstatus : CfiApart mstatusLayout := ⟨by decide, by decide⟩
theorem cfiApart_sstatus : CfiApart sstatusLayout := ⟨by decide, by decide⟩
theorem cfiApart_mseccfg : CfiApart mseccfgLayout := ⟨by decide, by decide⟩
theorem cfiApart_dcsr : CfiApart dcsrLayout := ⟨by decide, by decide⟩

/-- A CFI bit as a read shows it before gating: as stored. -/
theorem CfiApart.readMask_bit {l : Layout} (hl : CfiApart l) {i : Nat} (hi : (cfiMask l).getLsbD i = true) :
    (readMask l).getLsbD i = true := by
  have h := getLsbD_false_of_and_eq_zero hl.reserved hi
  rw [BitVec.getLsbD_not, decide_eq_true (BitVec.lt_of_getLsbD hi)] at h
  simpa using h

theorem CfiApart.writeFields_gated_bit {l : Layout} (hl : CfiApart l) {i : Nat} (hi : (cfiMask l).getLsbD i = true)
    (old v legal : Word) (g : Nat) (gate : Bool) :
    (writeFields old (gatedMask l g gate) v (drawnMask l) legal).getLsbD i =
      if i = g ∧ gate = false then old.getLsbD i else v.getLsbD i := by
  rw [getLsbD_writeFields, getLsbD_false_of_and_eq_zero hl.drawn hi, getLsbD_gatedMask _ _ _ _ (BitVec.lt_of_getLsbD hi), hi]
  cases gate with
  | true => simp
  | false => by_cases hg : i = g <;> simp [hg, eq_comm]


theorem csrWrite_menvcfg_cfiBit {i : Nat} (hi : (cfiMask menvcfgLayout).getLsbD i = true) (v : Word) (s : State) :
    (csrWrite .menvcfg v s).menvcfg.getLsbD i = v.getLsbD i := by
  simpa [csrWrite, storeMenvcfg, gatedMask] using cfiApart_menvcfg.writeFields_gated_bit hi s.menvcfg v _ 64 true

theorem csrWrite_henvcfg_cfiBit {i : Nat} (hi : (cfiMask henvcfgLayout).getLsbD i = true) (v : Word) (s : State) :
    (csrWrite .henvcfg v s).henvcfg.getLsbD i =
      if i = 60 ∧ menvcfgSBCFIE s = false then s.henvcfg.getLsbD i else v.getLsbD i := by
  rw [csrWrite, writeHenvcfg_henvcfg]
  exact cfiApart_menvcfg.writeFields_gated_bit hi ..

theorem csrWrite_mstatus_cfiBit {i : Nat} (hi : (cfiMask mstatusLayout).getLsbD i = true) (v : Word) (s : State) :
    (csrWrite .mstatus v s).mstatus.getLsbD i =
      if i = 24 ∧ menvcfgSBCFIE s = false then s.mstatus.getLsbD i else v.getLsbD i :=
  cfiApart_mstatus.writeFields_gated_bit hi ..

theorem csrWrite_vsstatus_cfiBit {i : Nat} (hi : (cfiMask vsstatusLayout).getLsbD i = true) (v : Word) (s : State) :
    (csrWrite .vsstatus v s).vsstatus.getLsbD i =
      if i = 24 ∧ henvcfgSBCFIE s = false then s.vsstatus.getLsbD i else v.getLsbD i :=
  cfiApart_sstatus.writeFields_gated_bit hi ..

/-- With V=0 a write of `sstatus` reaches `mstatus` (R46, R167). -/
theorem csrWrite_sstatus_mstatus_cfiBit {s : State} (hV : s.virt = false) {i : Nat}
    (hi : (cfiMask sstatusLayout).getLsbD i = true) (v : Word) :
    (csrWrite .sstatus v s).mstatus.getLsbD i =
      if i = 24 ∧ menvcfgSBCFIE s = false then s.mstatus.getLsbD i else v.getLsbD i := by
  simp only [csrWrite, writeSstatus, hV, Bool.false_eq_true, if_false]
  exact cfiApart_sstatus.writeFields_gated_bit hi ..

/-- With V=1 a write of `sstatus` reaches `vsstatus` (R46, R167). -/
theorem csrWrite_sstatus_vsstatus_cfiBit {s : State} (hV : s.virt = true) {i : Nat}
    (hi : (cfiMask sstatusLayout).getLsbD i = true) (v : Word) :
    (csrWrite .sstatus v s).vsstatus.getLsbD i =
      if i = 24 ∧ henvcfgSBCFIE s = false then s.vsstatus.getLsbD i else v.getLsbD i := by
  simp only [csrWrite, writeSstatus, hV, if_true]
  exact cfiApart_sstatus.writeFields_gated_bit hi ..

theorem csrWrite_sstatus_mstatus_of_virt {s : State} (hV : s.virt = true) (v : Word) :
    (csrWrite .sstatus v s).mstatus = s.mstatus := by
  simp [csrWrite, writeSstatus, hV]

theorem csrWrite_sstatus_vsstatus_of_not_virt {s : State} (hV : s.virt = false) (v : Word) :
    (csrWrite .sstatus v s).vsstatus = s.vsstatus := by
  simp [csrWrite, writeSstatus, hV]

/-- MFCFIE is written whatever the enables (R169). -/
theorem csrWrite_mseccfg_mfcfie (v : Word) (s : State) :
    (csrWrite .mseccfg v s).mseccfg.getLsbD 10 = v.getLsbD 10 := by
  have hdrawn : (drawnMask mseccfgLayout).getLsbD 10 = false := by decide
  have hcfi : (cfiMask mseccfgLayout &&& ~~~sspmpMask).getLsbD 10 = true := by decide
  rw [csrWrite, writeMseccfg_mseccfg, storeMseccfg_bit, hdrawn, hcfi]
  rfl

/-- `dcsr.pelp` is written by the low half of the value (R177). -/
theorem csrWrite_dcsr_pelp (v : Word) (s : State) : (csrWrite .dcsr v s).dcsr.getLsbD 18 = v.getLsbD 18 := by
  have hdrawn : (drawnMask dcsrLayout).getLsbD 18 = false := by decide
  have hcfi : (cfiMask dcsrLayout).getLsbD 18 = true := by decide
  rw [csrWrite, writeDcsr, BitVec.getLsbD_setWidth, getLsbD_writeFields, hdrawn, hcfi]
  rfl

/-! ### A read of a CFI field: the stored bit, or the gated value of it (R64) -/

theorem csrRead_menvcfg_cfiBit {i : Nat} (hi : (cfiMask menvcfgLayout).getLsbD i = true) (s : State) :
    (csrRead .menvcfg s).getLsbD i = s.menvcfg.getLsbD i := by
  rw [csrRead, readMenvcfg_bit, cfiApart_menvcfg.readMask_bit hi, Bool.and_true]

theorem csrRead_henvcfg_cfiBit {i : Nat} (hi : (cfiMask henvcfgLayout).getLsbD i = true) (s : State) :
    (csrRead .henvcfg s).getLsbD i = if i = 60 then henvcfgSBCFIE s else s.henvcfg.getLsbD i := by
  rw [csrRead, readHenvcfg_bit, henvcfgLayout_eq, cfiApart_menvcfg.readMask_bit hi, Bool.and_true]

theorem csrRead_mstatus_cfiBit {i : Nat} (hi : (cfiMask mstatusLayout).getLsbD i = true) (s : State) :
    (csrRead .mstatus s).getLsbD i = if i = 24 then mstatusUBCFIE s else s.mstatus.getLsbD i := by
  rw [csrRead, readMstatus_bit, cfiApart_mstatus.readMask_bit hi, Bool.and_true]

theorem csrRead_vsstatus_cfiBit {i : Nat} (hi : (cfiMask vsstatusLayout).getLsbD i = true) (s : State) :
    (csrRead .vsstatus s).getLsbD i = if i = 24 then vsstatusUBCFIE s else s.vsstatus.getLsbD i := by
  rw [csrRead, readVsstatus_bit, vsstatusLayout_eq, cfiApart_sstatus.readMask_bit hi, Bool.and_true]

/-- The CFI bits of `sstatus` are those of its target, gate included (R46, R167). -/
theorem csrRead_sstatus_cfiBit {i : Nat} (hi : (cfiMask sstatusLayout).getLsbD i = true) (s : State) :
    (csrRead .sstatus s).getLsbD i =
      if s.virt then (if i = 24 then vsstatusUBCFIE s else s.vsstatus.getLsbD i)
      else (if i = 24 then mstatusUBCFIE s else s.mstatus.getLsbD i) := by
  simp only [csrRead, readSstatus_bit, cfiApart_sstatus.readMask_bit hi, Bool.and_true]

theorem csrRead_mseccfg_mfcfie (s : State) : (csrRead .mseccfg s).getLsbD 10 = s.mseccfg.getLsbD 10 := by
  have hsspmp : sspmpMask.getLsbD 10 = false := by decide
  have hread : (readMask mseccfgLayout).getLsbD 10 = true := by decide
  rw [csrRead, readMseccfg_bit, hsspmp, hread, Bool.and_true]
  rfl

/-! ### The gated enables as they read -/

theorem csrRead_henvcfg_sbcfie (s : State) : (csrRead .henvcfg s).getLsbD 60 = henvcfgSBCFIE s :=
  csrRead_henvcfg_cfiBit (by decide) s

theorem csrRead_mstatus_ubcfie (s : State) : (csrRead .mstatus s).getLsbD 24 = mstatusUBCFIE s :=
  csrRead_mstatus_cfiBit (by decide) s

theorem csrRead_vsstatus_ubcfie (s : State) : (csrRead .vsstatus s).getLsbD 24 = vsstatusUBCFIE s :=
  csrRead_vsstatus_cfiBit (by decide) s

theorem csrRead_sstatus_ubcfie (s : State) :
    (csrRead .sstatus s).getLsbD 24 = if s.virt then vsstatusUBCFIE s else mstatusUBCFIE s :=
  csrRead_sstatus_cfiBit (by decide) s

theorem henvcfgSBCFIE_of_gate {s : State} (h : menvcfgSBCFIE s = false) : henvcfgSBCFIE s = false := by
  rw [henvcfgSBCFIE, h, Bool.false_and]

theorem mstatusUBCFIE_of_gate {s : State} (h : menvcfgSBCFIE s = false) : mstatusUBCFIE s = false := by
  rw [mstatusUBCFIE, h, Bool.false_and]

theorem vsstatusUBCFIE_of_gate {s : State} (h : henvcfgSBCFIE s = false) : vsstatusUBCFIE s = false := by
  rw [vsstatusUBCFIE, h, Bool.false_and]

/-! ### The previous-ELP fields (R39) -/

/-- The value whose bits all encode `e`. -/
def elpWord : Elp → Word
  | .noLpExpected => 0#64
  | .lpExpected => BitVec.allOnes 64

theorem elpOfBit_elpWord (e : Elp) {i : Nat} (hi : i < 64) : elpOfBit ((elpWord e).getLsbD i) = e := by
  cases e with
  | noLpExpected => rw [elpWord, BitVec.getLsbD_zero]; rfl
  | lpExpected => rw [elpWord, BitVec.getLsbD_allOnes, decide_eq_true hi]; rfl

/-- Settles O33: a previous-ELP field is a CFI bit without a gate, so a write stores either encoding. -/
theorem previousElpEncoding : Obligations.PreviousElpEncoding := by
  refine ⟨fun s => ⟨rfl, rfl, rfl, rfl⟩, fun e s => ⟨elpWord e, ?_, ?_⟩, fun e s => ⟨elpWord e, ?_⟩,
    fun e s => ⟨elpWord e, ?_⟩⟩
  · rw [mstatusMPELP, csrWrite_mstatus_cfiBit (by decide), if_neg (by simp)]
    exact elpOfBit_elpWord e (by decide)
  · rw [mstatusSPELP, csrWrite_mstatus_cfiBit (by decide), if_neg (by simp)]
    exact elpOfBit_elpWord e (by decide)
  · rw [vsstatusSPELP, csrWrite_vsstatus_cfiBit (by decide), if_neg (by simp)]
    exact elpOfBit_elpWord e (by decide)
  · rw [dcsrPelp, csrWrite_dcsr_pelp]
    exact elpOfBit_elpWord e (by decide)

/-! ### The window sstatus (R46) -/

/-- What a read of `mstatus` shows of a CFI bit is decided by the stored bit and the gate. -/
theorem csrRead_mstatus_cfiBit_congr {i : Nat} (hi : (cfiMask mstatusLayout).getLsbD i = true) {t u : State}
    (hgate : menvcfgSBCFIE t = menvcfgSBCFIE u) (hbit : t.mstatus.getLsbD i = u.mstatus.getLsbD i) :
    (csrRead .mstatus t).getLsbD i = (csrRead .mstatus u).getLsbD i := by
  rw [csrRead_mstatus_cfiBit hi, csrRead_mstatus_cfiBit hi]
  split
  · subst_vars
    rw [mstatusUBCFIE, mstatusUBCFIE, hgate, hbit]
  · exact hbit

theorem csrRead_vsstatus_cfiBit_congr {i : Nat} (hi : (cfiMask vsstatusLayout).getLsbD i = true) {t u : State}
    (hgate : henvcfgSBCFIE t = henvcfgSBCFIE u) (hbit : t.vsstatus.getLsbD i = u.vsstatus.getLsbD i) :
    (csrRead .vsstatus t).getLsbD i = (csrRead .vsstatus u).getLsbD i := by
  rw [csrRead_vsstatus_cfiBit hi, csrRead_vsstatus_cfiBit hi]
  split
  · subst_vars
    rw [vsstatusUBCFIE, vsstatusUBCFIE, hgate, hbit]
  · exact hbit

/-- A CFI field of `sstatus` is one of `mstatus` too. -/
theorem cfiMask_mstatus_of_sstatus {i : Nat} (hi : (cfiMask sstatusLayout).getLsbD i = true) :
    (cfiMask mstatusLayout).getLsbD i = true := by
  have hsub : cfiMask mstatusLayout &&& cfiMask sstatusLayout = cfiMask sstatusLayout := by decide
  rw [← hsub, BitVec.getLsbD_and, Bool.and_eq_true] at hi
  exact hi.1

/-- Settles O34: a CFI bit of `sstatus` is the same bit of its target, under the same gate. -/
theorem sstatusIsWindow : Obligations.SstatusIsWindow := by
  intro s v f hf
  have hs : (cfiMask sstatusLayout).getLsbD f = true := by
    simp only [List.mem_cons, List.not_mem_nil, or_false] at hf
    obtain rfl | rfl | rfl := hf <;> decide
  have hm : (cfiMask mstatusLayout).getLsbD f = true := cfiMask_mstatus_of_sstatus hs
  refine ⟨fun hV => ?_, fun hV => ?_, by decide⟩
  · have hbit : (csrWrite .sstatus v s).mstatus.getLsbD f = (csrWrite .mstatus v s).mstatus.getLsbD f := by
      rw [csrWrite_sstatus_mstatus_cfiBit hV hs, csrWrite_mstatus_cfiBit hm]
    refine ⟨?_, csrRead_mstatus_cfiBit_congr hm (by simp [menvcfgSBCFIE, csrWrite]) hbit, hbit⟩
    rw [csrRead_sstatus_cfiBit hs, csrRead_mstatus_cfiBit hm, hV]
    rfl
  · have hbit : (csrWrite .sstatus v s).vsstatus.getLsbD f = (csrWrite .vsstatus v s).vsstatus.getLsbD f := by
      rw [csrWrite_sstatus_vsstatus_cfiBit hV hs, csrWrite_vsstatus_cfiBit hs]
    refine ⟨?_, csrRead_vsstatus_cfiBit_congr hs (by simp [henvcfgSBCFIE, menvcfgSBCFIE, csrWrite]) hbit, hbit⟩
    rw [csrRead_sstatus_cfiBit hs, csrRead_vsstatus_cfiBit hs, hV]
    rfl

end Sys2Proof.Proofs

/-! ## The enables of Zicfiss and Zicfilp, and what holds where they are 0 -/

namespace Sys2Proof.Proofs
open Sys2Proof.Machine

/-- Settles O35: the predicates are the gated values written out. -/
theorem activityPredicates : Obligations.ActivityPredicates := fun _ =>
  ⟨rfl, rfl, rfl, rfl, rfl, rfl, rfl, rfl, rfl, rfl⟩

/-! ### Where Zicfiss is not active (R65, R170, R191, R192) -/

theorem ssActive_of_menvcfg_gate {s : State} (h : menvcfgSBCFIE s = false) {p : Priv} (hp : p ≠ .M) (v : Bool) :
    ssActive p v s = some false := by
  have hh := henvcfgSBCFIE_of_gate h
  cases p with
  | M => exact absurd rfl hp
  | S =>
    cases v with
    | false => exact congrArg some h
    | true => exact congrArg some hh
  | U =>
    cases v with
    | false => exact congrArg some (mstatusUBCFIE_of_gate h)
    | true => exact congrArg some (vsstatusUBCFIE_of_gate hh)

theorem ssActive_of_henvcfg_gate {s : State} (h : henvcfgSBCFIE s = false) {p : Priv} (hp : p ≠ .M) :
    ssActive p true s = some false := by
  cases p with
  | M => exact absurd rfl hp
  | S => exact congrArg some h
  | U => exact congrArg some (vsstatusUBCFIE_of_gate h)

/-- Where Zicfiss is not active the gate of `ssp` is shut (R170). -/
theorem csrAccessIn_ssp_of_inactive {s : State} (h : ssActive s.priv s.virt s = some false) :
    csrAccessIn defaultParams sspCsrAddr s = .illegal := by
  have hshut : sspPasses s = false := by rw [sspPasses, h]
  refine (csrAccessIn_sspCsrAddr distinctNums_defaultParams s).trans ?_
  rw [hshut]
  rfl

/-- Items (a) to (c) of R26, R31, R36 and R51 are one rule: they hold wherever Zicfiss is not active in a mode less than M. -/
theorem zicfissFallback_of_inactive {s : State} (h : ssActive s.priv s.virt s = some false) : zicfissFallback s := by
  refine ⟨fun rd src p hp => ?_, fun n rd rs1 => zicfissDispatch_inactive _ _ s h,
    fun n rd rs1 rs2 => zicfissDispatch_inactive _ _ s h, fun n => zicfissDispatch_inactive _ _ s h⟩
  obtain ⟨reads, writes, f, hx⟩ := execIn_csrForm hp defaultParams s
  rw [exec_eq_execIn, hx]
  exact csrInstructionIn_of_illegal (csrAccessIn_ssp_of_inactive h) ..

/-! ### The gates of the Zicfiss enables, shut: no write reaches the field (R64) -/

theorem csrWrite_henvcfg_sbcfie_of_gate {s : State} (h : menvcfgSBCFIE s = false) (v : Word) :
    (csrWrite .henvcfg v s).henvcfg.getLsbD 60 = s.henvcfg.getLsbD 60 :=
  (csrWrite_henvcfg_cfiBit (by decide) v s).trans (if_pos ⟨rfl, h⟩)

theorem csrWrite_mstatus_ubcfie_of_gate {s : State} (h : menvcfgSBCFIE s = false) (v : Word) :
    (csrWrite .mstatus v s).mstatus.getLsbD 24 = s.mstatus.getLsbD 24 :=
  (csrWrite_mstatus_cfiBit (by decide) v s).trans (if_pos ⟨rfl, h⟩)

theorem csrWrite_vsstatus_ubcfie_of_gate {s : State} (h : henvcfgSBCFIE s = false) (v : Word) :
    (csrWrite .vsstatus v s).vsstatus.getLsbD 24 = s.vsstatus.getLsbD 24 :=
  (csrWrite_vsstatus_cfiBit (by decide) v s).trans (if_pos ⟨rfl, h⟩)

theorem csrWrite_sstatus_mstatus_ubcfie_of_gate {s : State} (h : menvcfgSBCFIE s = false) (v : Word) :
    (csrWrite .sstatus v s).mstatus.getLsbD 24 = s.mstatus.getLsbD 24 := by
  cases hV : s.virt with
  | false => exact (csrWrite_sstatus_mstatus_cfiBit hV (by decide) v).trans (if_pos ⟨rfl, h⟩)
  | true => rw [csrWrite_sstatus_mstatus_of_virt hV]

theorem csrWrite_sstatus_vsstatus_ubcfie_of_gate {s : State} (h : henvcfgSBCFIE s = false) (v : Word) :
    (csrWrite .sstatus v s).vsstatus.getLsbD 24 = s.vsstatus.getLsbD 24 := by
  cases hV : s.virt with
  | false => rw [csrWrite_sstatus_vsstatus_of_not_virt hV]
  | true => exact (csrWrite_sstatus_vsstatus_cfiBit hV (by decide) v).trans (if_pos ⟨rfl, h⟩)

/-! ### The four Zicfiss enables -/

theorem csrRead_sstatus_ubcfie_of_gate {s : State} (h : menvcfgSBCFIE s = false) :
    (csrRead .sstatus s).getLsbD 24 = false := by
  rw [csrRead_sstatus_ubcfie, mstatusUBCFIE_of_gate h, vsstatusUBCFIE_of_gate (henvcfgSBCFIE_of_gate h), ite_self]

theorem pteXwrReserved_sStage (xwr : BitVec 3) (s : State) :
    pteXwrReserved .sStage xwr s = (xwr == 2#3 && !menvcfgSBCFIE s) := rfl

theorem pteXwrReserved_vsStage (xwr : BitVec 3) (s : State) :
    pteXwrReserved .vsStage xwr s = (xwr == 2#3 && !henvcfgSBCFIE s) := rfl

/-- Settles O26: at 0 the gate is shut for `henvcfg.SBCFIE` and the UBCFIE fields, so Zicfiss is inactive below M. -/
theorem menvcfgSbcfieRules : Obligations.MenvcfgSbcfieRules := by
  intro s
  refine ⟨congrArg some, fun (hgate : menvcfgSBCFIE s = false) => ?_, fun c v hc => csrWrite_menvcfg hc v s,
    csrRead_menvcfg_cfiBit (by decide) s, fun v => csrWrite_menvcfg_cfiBit (by decide) v s⟩
  have hh : henvcfgSBCFIE s = false := henvcfgSBCFIE_of_gate hgate
  exact ⟨congrArg some hgate, fun hp => zicfissFallback_of_inactive (ssActive_of_menvcfg_gate hgate hp _),
    by rw [pteXwrReserved_sStage, hgate]; rfl, (csrRead_henvcfg_sbcfie s).trans hh,
    csrRead_sstatus_ubcfie_of_gate hgate, (csrRead_mstatus_ubcfie s).trans (mstatusUBCFIE_of_gate hgate),
    (csrRead_vsstatus_ubcfie s).trans (vsstatusUBCFIE_of_gate hh),
    fun v => ⟨csrWrite_henvcfg_sbcfie_of_gate hgate v, csrWrite_mstatus_ubcfie_of_gate hgate v,
      csrWrite_vsstatus_ubcfie_of_gate hh v, csrWrite_sstatus_mstatus_ubcfie_of_gate hgate v,
      csrWrite_sstatus_vsstatus_ubcfie_of_gate hh v⟩⟩

/-- Settles O27: at 0 the gate is shut for `vsstatus.UBCFIE`, so Zicfiss is inactive in both guest modes. -/
theorem henvcfgSbcfieRules : Obligations.HenvcfgSbcfieRules := by
  intro s
  rw [csrRead_henvcfg_sbcfie, csrRead_vsstatus_ubcfie, csrRead_sstatus_ubcfie]
  refine ⟨rfl, congrArg some, fun hgate => ?_⟩
  refine ⟨congrArg some hgate, fun hp hV => zicfissFallback_of_inactive ?_, by rw [pteXwrReserved_vsStage, hgate]; rfl,
    vsstatusUBCFIE_of_gate hgate, fun hV => ?_,
    fun v => ⟨csrWrite_vsstatus_ubcfie_of_gate hgate v, fun _ => csrWrite_sstatus_vsstatus_ubcfie_of_gate hgate v⟩⟩
  · rw [hV]
    exact ssActive_of_henvcfg_gate hgate hp
  · rw [hV]
    exact vsstatusUBCFIE_of_gate hgate

/-- Settles O28: the bit as it reads is what decides in U-mode, and its gate is `menvcfg.SBCFIE`. -/
theorem mstatusUbcfieRules : Obligations.MstatusUbcfieRules := by
  intro s
  rw [csrRead_mstatus_ubcfie, csrRead_sstatus_ubcfie]
  refine ⟨congrArg some, fun hoff => ⟨congrArg some hoff, fun hU hV => zicfissFallback_of_inactive ?_⟩, fun hV => ?_,
    fun hgate => ⟨mstatusUBCFIE_of_gate hgate, csrWrite_mstatus_ubcfie_of_gate hgate⟩⟩
  · rw [hU, hV]
    exact congrArg some hoff
  · rw [hV]
    rfl

/-- Settles O29: the bit as it reads is what decides in VU-mode, its gate is `henvcfg.SBCFIE` as read, and with V=1 `sstatus`
is the same register. -/
theorem vsstatusUbcfieRules : Obligations.VsstatusUbcfieRules := by
  intro s
  rw [csrRead_vsstatus_ubcfie, csrRead_henvcfg_sbcfie, csrRead_sstatus_ubcfie]
  refine ⟨congrArg some, fun hoff => ⟨congrArg some hoff, fun hU hV => zicfissFallback_of_inactive ?_⟩,
    fun hgate => ⟨vsstatusUBCFIE_of_gate hgate, csrWrite_vsstatus_ubcfie_of_gate hgate⟩, henvcfgSBCFIE_of_gate,
    rfl, rfl, rfl, fun hV => ⟨?_, fun v => ?_⟩⟩
  · rw [hU, hV]
    exact congrArg some hoff
  · rw [hV]
    rfl
  · rw [csrWrite_sstatus_vsstatus_cfiBit hV (by decide), csrWrite_vsstatus_cfiBit (by decide)]

/-! ### The Zicfilp enables (R32, R52, R59, R210, R211) -/

/-- An inactive `lpad` is the advance of the pc, whatever its label (R211). -/
theorem exec_lpad_of_inactive {s : State} (h : lpActive s.priv s.virt s = false) (lpl : BitVec 20) :
    exec (.lpad lpl) s = advance 4 s := by
  simp [exec, execLpad, h]

theorem zicfilpFallback_of_inactive {s : State} (h : lpActive s.priv s.virt s = false) : zicfilpFallback s :=
  ⟨fun he _ _ hx => exec_elp_of_noLpExpected he hx,
    fun lpl hpc => (exec_lpad_of_inactive h lpl).trans ((advance_next_iff ..).mpr ⟨hpc, rfl⟩)⟩

/-- Settles O31: each enable is an ungated bit, so a read shows it, a write stores it, and it alone decides in its mode. -/
theorem zicfilpEnableRules : Obligations.ZicfilpEnableRules := by
  intro s v
  have hVS : ∀ t : State, (csrRead .henvcfg t).getLsbD 59 = t.henvcfg.getLsbD 59 := csrRead_henvcfg_cfiBit (by decide)
  have hVU : ∀ t : State, (csrRead .vsstatus t).getLsbD 23 = t.vsstatus.getLsbD 23 := csrRead_vsstatus_cfiBit (by decide)
  simp only [hVS, hVU, csrRead_mseccfg_mfcfie]
  refine ⟨rfl, rfl, rfl, fun h hS hV => ?_, fun h hU hV => ?_, fun h hM => ?_,
    csrWrite_henvcfg_cfiBit (by decide) v s, csrWrite_vsstatus_cfiBit (by decide) v s, csrWrite_mseccfg_mfcfie v s, rfl⟩ <;>
    refine zicfilpFallback_of_inactive ?_
  · rw [hS, hV]
    exact h
  · rw [hU, hV]
    exact h
  · rw [hM]
    exact h

/-! ### The CSR ssp (R54, R56) -/

/-- Settles O24: where the check passes the access is the one every CSR instruction makes, here to the whole register. -/
theorem sspCsrIsWholeRegister : Obligations.SspCsrIsWholeRegister := by
  intro s rd rs1 hok hpc
  refine ⟨?_, ?_, fun _ _ => rfl⟩
  · obtain ⟨t, hx, -, hrd, -, hregs, -, -, hrest⟩ :=
      csrInstructionIn_completes hok hpc (csrWord sspCsrAddr 0#5 2 rd) (rd := rd) (reads := true) nofun false
        (fun u => u ||| s.x 0#5)
    exact ⟨t, hx, hrd, hregs, hrest⟩
  · obtain ⟨t, hx, -, -, hzero, hregs, hmode, hmem, -, help, hssp, hcsrs, -, -⟩ :=
      csrInstructionIn_completes hok hpc (csrWord sspCsrAddr rs1 1 0#5) (rd := 0#5) (reads := false) (fun _ => rfl) true
        (fun _ => s.x rs1)
    refine ⟨t, hx, hssp, fun r => ?_, hmode, help, hcsrs, hmem⟩
    by_cases hr : r = 0#5
    · rw [hr, hzero, x_zero]
    · exact hregs r hr

end Sys2Proof.Proofs


/-! ## The reserved page-table encoding (20_memory.md R102) -/

namespace Sys2Proof.Proofs
open Sys2Proof.Machine

theorem pteXwrReserved_sStage_iff (xwr : BitVec 3) (s : State) :
    pteXwrReserved .sStage xwr s = true ↔ xwr = 2#3 ∧ menvcfgSBCFIE s = false := by
  rw [pteXwrReserved_sStage, Bool.and_eq_true, beq_iff_eq, Bool.not_eq_true']

theorem pteXwrReserved_vsStage_iff (xwr : BitVec 3) (s : State) :
    pteXwrReserved .vsStage xwr s = true ↔ xwr = 2#3 ∧ henvcfgSBCFIE s = false := by
  rw [pteXwrReserved_vsStage, Bool.and_eq_true, beq_iff_eq, Bool.not_eq_true']

/-- Settles O36: each stage's governing enable is the bit 60 that a read of its CSR returns; `menvcfg` shows it as stored, and
`henvcfg` through its gate. -/
theorem pteXwrReservation : Obligations.PteXwrReservation := by
  intro s xwr
  have hmenvcfg : (csrRead .menvcfg s).getLsbD 60 = menvcfgSBCFIE s := csrRead_menvcfg_cfiBit (by decide) s
  rw [hmenvcfg, csrRead_henvcfg_sbcfie]
  exact ⟨pteXwrReserved_sStage_iff xwr s, pteXwrReserved_vsStage_iff xwr s⟩

end Sys2Proof.Proofs

/-! ## The round trip of decoder and encoder over all bytes, and the words that fit no row -/

namespace Sys2Proof.Proofs
open Sys2Proof.Machine

/-- Settles O1, which is the round trip that O6 uses in memory. -/
theorem decodeInvertsEncode : Obligations.DecodeInvertsEncode := fun _ rest hwf =>
  decode_encodeBytes_append hwf rest

/-! ### The fields of a word, encoded again (R131 to R137)

Encoding the fields of any word with a row's format gives the word's own bits where the row's mask is 0, and the row's match
where it is 1. A word that fits the row has the match there already, so it comes back unchanged. -/

theorem merge_of_fits {k : Nat} {w mask pattern : BitVec k} (h : fits w mask pattern = true) :
    w &&& ~~~mask ||| pattern = w := by
  rw [← beq_iff_eq.mp h]
  ext i hi
  cases hm : mask[i] <;> simp [hm]

theorem csrWord_fields (w : IWord) (f : BitVec 3) :
    csrWord (fieldCsr w) (fieldRs1 w) f (fieldRd w) = w &&& ~~~csrMask ||| csrMatch f := by
  refine BitVec.eq_of_getLsbD_eq fun i hi => ?_
  simp only [csrWord, fieldCsr, fieldRs1, fieldRd, csrMask, csrMatch, BitVec.getLsbD_or, BitVec.getLsbD_and,
    BitVec.getLsbD_not, BitVec.getLsbD_cast, BitVec.getLsbD_append, BitVec.getLsbD_extractLsb']
  interval_cases i <;> simp

theorem mopRWord_fields (w : IWord) :
    mopRWord (fieldMopR w) (fieldRs1 w) (fieldRd w) = w &&& ~~~mopRMask ||| mopRMatch := by
  refine BitVec.eq_of_getLsbD_eq fun i hi => ?_
  simp only [mopRWord, fieldMopR, fieldRs1, fieldRd, mopRMask, mopRMatch, BitVec.getLsbD_or, BitVec.getLsbD_and,
    BitVec.getLsbD_not, BitVec.getLsbD_cast, BitVec.getLsbD_append, BitVec.getLsbD_extractLsb']
  interval_cases i <;> simp

theorem mopRRWord_fields (w : IWord) :
    mopRRWord (fieldMopRR w) (fieldRs2 w) (fieldRs1 w) (fieldRd w) = w &&& ~~~mopRRMask ||| mopRRMatch := by
  refine BitVec.eq_of_getLsbD_eq fun i hi => ?_
  simp only [mopRRWord, fieldMopRR, fieldRs2, fieldRs1, fieldRd, mopRRMask, mopRRMatch, BitVec.getLsbD_or,
    BitVec.getLsbD_and, BitVec.getLsbD_not, BitVec.getLsbD_cast, BitVec.getLsbD_append, BitVec.getLsbD_extractLsb']
  interval_cases i <;> simp

theorem lpadWord_fields (w : IWord) : lpadWord (fieldLpl w) = w &&& ~~~lpadMask ||| lpadMatch := by
  refine BitVec.eq_of_getLsbD_eq fun i hi => ?_
  simp only [lpadWord, fieldLpl, lpadMask, lpadMatch, BitVec.getLsbD_or, BitVec.getLsbD_and, BitVec.getLsbD_not,
    BitVec.getLsbD_cast, BitVec.getLsbD_append, BitVec.getLsbD_extractLsb']
  interval_cases i <;> simp

theorem cmopHalf_fields (h : Half) : cmopHalf (fieldCmop h) = h &&& ~~~cmopMask ||| cmopMatch := by
  refine BitVec.eq_of_getLsbD_eq fun i hi => ?_
  simp only [cmopHalf, fieldCmop, cmopMask, cmopMatch, BitVec.getLsbD_or, BitVec.getLsbD_and, BitVec.getLsbD_not,
    BitVec.getLsbD_cast, BitVec.getLsbD_append, BitVec.getLsbD_extractLsb']
  interval_cases i <;> simp

/-- The field of `c.mop.n` ends in its constant bit 1, so `n` is odd (R136). -/
theorem oddMop_fieldCmop (h : Half) : oddMop (fieldCmop h) = true := by
  simp only [oddMop, fieldCmop, BitVec.getLsbD_cast, BitVec.getLsbD_append]
  rfl

/-! ### A decoded word is its instruction's encoding -/

theorem encode_of_decodeWord {w : IWord} {i : Instr} (h : decodeWord w = some i) :
    i.wellFormed = true ∧ encode i = parcelsOf w := by
  have hcsr {f : BitVec 3} (hf : fits w csrMask (csrMatch f) = true) :
      parcelsOf (csrWord (fieldCsr w) (fieldRs1 w) f (fieldRd w)) = parcelsOf w := by
    rw [csrWord_fields, merge_of_fits hf]
  simp only [decodeWord, decodeWordIn] at h
  split_ifs at h with h1 h2 h3 h5 h6 h7 hmopR hmopRR hlpad <;> obtain rfl := Option.some.inj h <;> refine ⟨rfl, ?_⟩
  · exact hcsr h1
  · exact hcsr h2
  · exact hcsr h3
  · exact hcsr h5
  · exact hcsr h6
  · exact hcsr h7
  · rw [encode, mopRWord_fields, merge_of_fits hmopR]
  · rw [encode, mopRRWord_fields, merge_of_fits hmopRR]
  · rw [encode, lpadWord_fields, merge_of_fits (mask := lpadMask) (pattern := lpadMatch) hlpad]

theorem encode_of_decodeHalf {h : Half} {i : Instr} (hd : decodeHalf h = some i) :
    i.wellFormed = true ∧ encode i = [h] := by
  rw [decodeHalf] at hd
  split_ifs at hd with hfits
  obtain rfl := Option.some.inj hd
  exact ⟨oddMop_fieldCmop h, by rw [encode, cmopHalf_fields, merge_of_fits hfits]⟩

/-! ### From bytes to words (R103, R130) -/

theorem parcelBytes_parcel (b0 b1 : Byte) : parcelBytes (parcel b0 b1) = [b0, b1] := by
  have hlow : (parcel b0 b1).extractLsb' 0 8 = b0 := BitVec.extractLsb'_append_eq_right
  have hhigh : (parcel b0 b1).extractLsb' 8 8 = b1 := BitVec.extractLsb'_append_eq_left
  rw [parcelBytes, hlow, hhigh]

theorem parcelsOf_joinParcels (lo hi : Half) : parcelsOf (joinParcels lo hi) = [lo, hi] := by
  have hlow : (joinParcels lo hi).extractLsb' 0 16 = lo := BitVec.extractLsb'_append_eq_right
  have hhigh : (joinParcels lo hi).extractLsb' 16 16 = hi := BitVec.extractLsb'_append_eq_left
  rw [parcelsOf, hlow, hhigh]

theorem orRefuse_eq_ok_iff {o : Option Instr} {bytes rest : List Byte} {i : Instr} :
    orRefuse o bytes = .ok (i, rest) ↔ o = some i ∧ bytes = rest := by
  cases o <;> simp [orRefuse]

/-- Two ways to accept: the 16-bit row at the first parcel, or a 32-bit row at the first two. -/
theorem parcels_of_decode_ok {bytes rest : List Byte} {i : Instr} (h : decode bytes = .ok (i, rest)) :
    (∃ p : Half, bytes = parcelBytes p ++ rest ∧ decodeHalf p = some i) ∨
    (∃ lo hi : Half, bytes = parcelBytes lo ++ (parcelBytes hi ++ rest) ∧ decodeWord (joinParcels lo hi) = some i) := by
  match bytes with
  | [] | [_] => cases h
  | b0 :: b1 :: tail =>
    simp only [decode, decodeIn] at h
    split_ifs at h with hlongest hlong
    · match tail with
      | [] | [_] => cases h
      | b2 :: b3 :: tail =>
        obtain ⟨hd, rfl⟩ := orRefuse_eq_ok_iff.mp h
        exact .inr ⟨parcel b0 b1, parcel b2 b3, by simp [parcelBytes_parcel], hd⟩
    · obtain ⟨hd, rfl⟩ := orRefuse_eq_ok_iff.mp h
      exact .inl ⟨parcel b0 b1, by simp [parcelBytes_parcel], hd⟩

/-- Settles O2: the accepted parcels are the instruction's own encoding, by the row that they fit. -/
theorem decodeAcceptsOnlyEncodings : Obligations.DecodeAcceptsOnlyEncodings := by
  intro bytes rest i h
  obtain ⟨p, rfl, hd⟩ | ⟨lo, hi, rfl, hd⟩ := parcels_of_decode_ok h
  · obtain ⟨hwf, he⟩ := encode_of_decodeHalf hd
    exact ⟨hwf, by simp [encodeBytes, he]⟩
  · obtain ⟨hwf, he⟩ := encode_of_decodeWord hd
    exact ⟨hwf, by simp [encodeBytes, he, parcelsOf_joinParcels]⟩

/-! ### No word fits two rows, and one that fits none is refused (R137, R139) -/

/-- Two rows that disagree in a bit of both masks have no word in common. -/
theorem not_fits_both {k : Nat} {w m n p q : BitVec k} (hbit : m &&& n &&& (p ^^^ q) ≠ 0#k) :
    ¬(fits w m p = true ∧ fits w n q = true) := by
  rintro ⟨hp, hq⟩
  refine hbit ?_
  rw [← beq_iff_eq.mp hp, ← beq_iff_eq.mp hq]
  ext i hi
  cases hm : m[i] <;> cases hn : n[i] <;> simp [hm, hn]

theorem decodeLpadRow_eq_none_iff (L : Config.LpadCode) (w : IWord) :
    decodeLpadRow L w = none ↔ fits w L.mask L.pattern = false := by
  rw [decodeLpadRow, ite_some_eq_none_iff, and_iff_left rfl]

/-- The word decoder answers nothing exactly where neither the eight rows nor the row of `lpad` fit. -/
theorem decodeWord_eq_none_iff (w : IWord) : decodeWord w = none ↔ ∀ p ∈ wordRows, fits w p.1 p.2 = false :=
  calc decodeWord w = none
    _ ↔ (∀ p ∈ wordRows.take 8, fits w p.1 p.2 = false) ∧ fits w lpadMask lpadMatch = false := by
      rw [decodeWord, decodeWordIn_eq, Option.or_eq_none_iff, decodeOtherRows_eq_none_iff, decodeLpadRow_eq_none_iff,
        lpadDefault]
    _ ↔ ∀ p ∈ wordRows.take 8 ++ [(lpadMask, lpadMatch)], fits w p.1 p.2 = false := by
      rw [List.forall_mem_append, List.forall_mem_singleton]

/-- Settles O3: every two of the nine rows disagree in a bit that both masks hold. -/
theorem opcodeRowsDisjointAndComplete : Obligations.OpcodeRowsDisjointAndComplete := fun w =>
  have hbits : wordRows.Pairwise (fun p q => p.1 &&& q.1 &&& (p.2 ^^^ q.2) ≠ 0#32) := by decide
  ⟨hbits.imp not_fits_both, decodeWord_eq_none_iff w⟩

/-! ### The step at bits that fit no row -/

theorem decode_parcelBytes_tooLong {h : Half} (hlong : isTooLong h = true) (rest : List Byte) :
    decode (parcelBytes h ++ rest) = .error .longEncoding := by
  simp only [decode, parcelBytes, List.cons_append, List.nil_append, decodeIn, parcel_parcelBytes, hlong, if_true]

/-- All of the five lowest bits set makes the two lowest set. -/
theorem isTooLong_eq_false_of_not_isLong {h : Half} (hl : isLong h = false) : isTooLong h = false := by
  refine Bool.eq_false_iff.mpr fun ht => Bool.eq_false_iff.mp hl (beq_iff_eq.mpr ?_)
  calc h.extractLsb' 0 2 = (h.extractLsb' 0 5).extractLsb' 0 2 := by ext i hi; simp
    _ = 3#2 := by rw [beq_iff_eq.mp ht]; rfl

theorem step_refused_of_longEncoding {s : State} (he : s.elp = .noLpExpected)
    (hd : decode (fetchBytes s) = .error .longEncoding) : step s = .refused .notInAdmittedSet :=
  step_of_decode_error he hd

theorem step_refused_of_notInAdmittedSet {s : State} (he : s.elp = .noLpExpected)
    (hd : decode (fetchBytes s) = .error .notInAdmittedSet) : step s = .refused .notInAdmittedSet :=
  step_of_decode_error he hd

/-- A window whose first two bytes have values begins with the parcel they make. -/
theorem window_eq_parcelBytes_append {m : Memory} {a : Word} {b0 b1 : Byte} (h0 : m.read a.toNat = some b0)
    (h1 : m.read (a + 1#64).toNat = some b1) (n : Nat) :
    m.window a (n + 2) = parcelBytes (parcel b0 b1) ++ m.window (a + 2#64) n := by
  rw [window_of_read_some h0, window_of_read_some h1, BitVec.add_assoc, parcelBytes_parcel]
  rfl

/-- Settles O9: the length rule says how many of the fetched bits make the instruction, and they fit no row. -/
theorem stepRefusesOutsideAdmittedSet : Obligations.StepRefusesOutsideAdmittedSet := by
  intro s b0 b1 he h0 h1
  have hfetch : fetchBytes s = parcelBytes (parcel b0 b1) ++ s.mem.window (s.pc + 2#64) 2 :=
    window_eq_parcelBytes_append h0 h1 2
  refine ⟨fun hlong => ?_, fun hshort hno => ?_, fun b2 b3 hlong hshort h2 h3 hno => ?_⟩
  · refine step_refused_of_longEncoding he ?_
    rw [hfetch, decode_parcelBytes_tooLong (by simp [isTooLong_parcel, hlong])]
  · have hl : isLong (parcel b0 b1) = false := by simp [isLong_parcel, hshort]
    refine step_refused_of_notInAdmittedSet he ?_
    rw [hfetch, decode_parcelBytes_short hl (isTooLong_eq_false_of_not_isLong hl), decodeHalf, if_neg (by simp [hno]),
      orRefuse]
  · have h3' : s.mem.read (s.pc + 2#64 + 1#64).toNat = some b3 := by rwa [BitVec.add_assoc]
    refine step_refused_of_notInAdmittedSet he ?_
    rw [hfetch, window_eq_parcelBytes_append h2 h3' 0,
      decode_parcelBytes_long (by simp [isLong_parcel, hlong]) (by simp [isTooLong_parcel, hshort]),
      (decodeWord_eq_none_iff _).mpr hno, orRefuse]

/-! ### Words of the table -/

/-- A table word whose bytes begin with a well-formed instruction's encoding decodes to it. -/
theorem decodeTableWord_of_tableBytes {nbits w : Nat} {i : Instr} (rest : List Byte) (hwf : i.wellFormed = true)
    (h : tableBytes nbits w = encodeBytes i ++ rest) : decodeTableWord nbits w = some i := by
  rw [decodeTableWord, h, decode_encodeBytes_append hwf]

theorem decodeTableWord_of_decode_error {nbits w : Nat} {e : DecodeError} (h : decode (tableBytes nbits w) = .error e) :
    decodeTableWord nbits w = none := by
  rw [decodeTableWord, h]

/-- Settles O4: seven words are their instructions' encodings, which decode to them by the round trip; the decoder refuses the
other two. -/
theorem tableWordsDecode : Obligations.TableWordsDecode :=
  ⟨decodeTableWord_of_tableBytes [] rfl (by decide), decodeTableWord_of_tableBytes [] rfl (by decide),
    decodeTableWord_of_tableBytes [] rfl (by decide), decodeTableWord_of_tableBytes [] rfl (by decide),
    decodeTableWord_of_tableBytes [] rfl (by decide), decodeTableWord_of_tableBytes [0#8, 0#8] rfl (by decide),
    decodeTableWord_of_tableBytes [] rfl (by decide),
    decodeTableWord_of_decode_error (e := .notInAdmittedSet) rfl,
    decodeTableWord_of_decode_error (e := .notInAdmittedSet) rfl⟩

end Sys2Proof.Proofs

/-! ## The access check and the CSR instructions at the defaults -/

namespace Sys2Proof.Proofs
open Sys2Proof.Machine

/-! ### The table of R162 -/

/-- What the access check answers where the table decides. -/
def tableAnswer (c : Csr) : PrivCheck → CsrAccess
  | .ok => .ok c
  | .illegal => .illegal
  | .refuse => .refuse .guestCsrAccess

theorem csrAccess_csrAddr {c : Csr} (hc : c ≠ .ssp) (s : State) :
    csrAccess (csrAddr c) s = tableAnswer c (csrPrivOk c s.priv s.virt) := by
  obtain ⟨hok, hillegal, hrefuse⟩ := (configuredAccessCheck defaultParams s distinctNums_defaultParams).1 c hc
  simp only [csrNumIn_defaultParams] at hok hillegal hrefuse
  cases hp : csrPrivOk c s.priv s.virt with
  | ok => exact hok hp
  | illegal => exact hillegal hp
  | refuse => exact hrefuse hp

/-- A list of CSRs to which the table gives one answer in a mode gets that answer from the access check. -/
theorem csrAccess_of_table {s : State} {p : Priv} {v : Bool} (hp : s.priv = p) (hv : s.virt = v) {cs : List Csr}
    {r : PrivCheck} (h : ∀ c ∈ cs, c ≠ .ssp ∧ csrPrivOk c p v = r) :
    ∀ c ∈ cs, csrAccess (csrAddr c) s = tableAnswer c r := by
  intro c hc
  obtain ⟨hssp, hr⟩ := h c hc
  rw [csrAccess_csrAddr hssp, hp, hv, hr]

/-- M-mode passes the table for every CSR but `dcsr`. -/
theorem csrPrivOk_M {c : Csr} (hc : c ≠ .dcsr) (v : Bool) : csrPrivOk c .M v = .ok := by
  cases c with
  | dcsr => exact absurd rfl hc
  | ssp | sstatus | vsstatus | mstatus | menvcfg | henvcfg | mseccfg => rfl

theorem csrAccess_of_M {s : State} (hM : s.priv = .M) {c : Csr} (hc : c ≠ .dcsr) :
    csrAccess (csrAddr c) s = .ok c := by
  refine (csrAccess_ok_iff ..).mpr ⟨rfl, ?_, fun _ => (sspPasses_iff s).mpr (.inl hM)⟩
  rw [hM, csrPrivOk_M hc]

/-- Settles O10, mode by mode from the table of R162; `ssp` and the numbers that name no CSR as under every configuration. -/
theorem csrAccessTable : Obligations.CsrAccessTable := by
  intro s
  obtain ⟨-, -, hssp, hother⟩ := configuredAccessCheck defaultParams s distinctNums_defaultParams
  simp only [csrNumIn_defaultParams] at hother
  refine ⟨fun hM c => csrAccess_of_M hM, fun hS hV => ⟨?_, ?_⟩, fun hU hV => ?_, fun hS hV => ⟨?_, ?_, ?_⟩,
    fun hU hV => ⟨?_, ?_⟩, hssp, ?_, fun a ha hm hh => ?_⟩
  · exact csrAccess_of_table hS hV (r := .ok) (by decide)
  · exact csrAccess_of_table hS hV (r := .illegal) (by decide)
  · exact csrAccess_of_table hU hV (r := .illegal) (by decide)
  · exact csrAccess_of_table hS hV (cs := [.sstatus]) (r := .ok) (by decide) _ (by simp)
  · exact csrAccess_of_table hS hV (r := .refuse) (by decide)
  · exact csrAccess_of_table hS hV (r := .illegal) (by decide)
  · exact csrAccess_of_table hU hV (r := .refuse) (by decide)
  · exact csrAccess_of_table hU hV (r := .illegal) (by decide)
  · simp only [List.forall_mem_cons, List.not_mem_nil, false_imp_iff, implies_true, and_true]
    have hm : ∀ c, menvcfghAddr ≠ csrAddr c := by intro c; cases c <;> decide
    have hh : ∀ c, henvcfghAddr ≠ csrAddr c := by intro c; cases c <;> decide
    exact ⟨csrAccess_csrAddr (by decide) s, hother _ hm, hother _ hh⟩
  · exact (hother a ha).trans (if_neg (not_or.mpr ⟨hm, hh⟩))

/-! ### The gate of ssp (R170) -/

/-- The gates of R64 lie one behind the other, so an enable below M is off exactly where one of those it stands behind, or its
own bit as it reads, is 0. -/
theorem ssActive_eq_some_false_iff {p : Priv} (hp : p ≠ .M) (v : Bool) (s : State) :
    ssActive p v s = some false ↔
      menvcfgSBCFIE s = false ∨ (v = true ∧ henvcfgSBCFIE s = false) ∨
      (p = .U ∧ v = false ∧ mstatusUBCFIE s = false) ∨ (p = .U ∧ v = true ∧ vsstatusUBCFIE s = false) := by
  constructor
  · intro h
    cases p with
    | M => exact absurd rfl hp
    | S =>
      cases v with
      | false => exact .inl (Option.some.inj h)
      | true => exact .inr (.inl ⟨rfl, Option.some.inj h⟩)
    | U =>
      cases v with
      | false => exact .inr (.inr (.inl ⟨rfl, rfl, Option.some.inj h⟩))
      | true => exact .inr (.inr (.inr ⟨rfl, rfl, Option.some.inj h⟩))
  · rintro (hgate | ⟨rfl, hgate⟩ | ⟨rfl, rfl, hoff⟩ | ⟨rfl, rfl, hoff⟩)
    · exact ssActive_of_menvcfg_gate hgate hp v
    · exact ssActive_of_henvcfg_gate hgate hp
    · exact congrArg some hoff
    · exact congrArg some hoff

/-- Settles O25: the gate of `ssp` alone decides there, and below M it is open exactly where Zicfiss is active. -/
theorem sspAccessRule : Obligations.SspAccessRule := by
  intro s
  have hmenvcfg : (csrRead .menvcfg s).getLsbD 60 = menvcfgSBCFIE s := csrRead_menvcfg_cfiBit (by decide) s
  rw [hmenvcfg, csrRead_henvcfg_sbcfie, csrRead_mstatus_ubcfie, csrRead_vsstatus_ubcfie]
  exact ⟨fun hM => csrAccess_of_M (c := .ssp) hM (by decide),
    fun _ hoff => (zicfissFallback_of_inactive hoff).1,
    fun _ hon => (csrAccess_ok_iff sspCsrAddr s .ssp).mpr ⟨rfl, rfl, fun _ => (sspPasses_iff s).mpr (.inr hon)⟩,
    fun hM => ssActive_eq_some_false_iff hM s.virt s, rfl, fun _ => rfl, fun _ _ => rfl⟩

/-! ### How a CSR instruction stops (R180, R234) -/

theorem encode_csrForm {rd : Reg} {csr : CsrNum} {src : BitVec 5} {p : Instr × IWord} (hp : p ∈ csrForms rd csr src) :
    encode p.1 = parcelsOf p.2 :=
  (encode_of_decodeWord (decodeWord_csrForm hp)).2

/-- Settles O11: the six forms stop as under every configuration, and the word of each is its encoding. -/
theorem csrFormsStopByAccessCheck : Obligations.CsrFormsStopByAccessCheck := by
  intro s rd csr src p hp
  obtain ⟨hillegal, hrefuse⟩ := (configuredCsrInstructions defaultParams s rd csr src).1 p hp
  rw [exec_eq_execIn]
  exact ⟨encode_csrForm hp, hillegal, hrefuse⟩

/-- An instruction that addresses a CSR is one of the six forms at that number. -/
theorem mem_csrForms_of_csrNumOf {i : Instr} {a : CsrNum} (h : csrNumOf i = some a) :
    ∃ (rd : Reg) (src : BitVec 5) (w : IWord), (i, w) ∈ csrForms rd a src := by
  cases i with
  | csrrw rd csr src | csrrs rd csr src | csrrc rd csr src | csrrwi rd csr src | csrrsi rd csr src | csrrci rd csr src =>
    cases h
    exact ⟨rd, src, by simp [csrForms]⟩
  | mopRN | mopRRN | cmopN | lpad => cases h

/-- A MOP word and `lpad` never fault (R190, R211). -/
theorem exec_ne_fault_of_csrNumOf_none {i : Instr} (h : csrNumOf i = none) (s : State) (e : Fault) :
    exec i s ≠ .fault e := by
  intro hx
  cases i with
  | csrrw | csrrs | csrrc | csrrwi | csrrsi | csrrci => cases h
  | mopRN | mopRRN | cmopN => exact advance_not_fault _ _ _ (zicfissDispatch_fault _ _ _ _ hx)
  | lpad l =>
    simp only [exec, execLpad] at hx
    split at hx
    · cases hx
    · exact advance_not_fault _ _ _ hx

/-- Settles O42: an instruction that faults addresses a CSR, so it is one of the six forms, which fault by the check alone. -/
theorem onlyIllegalInstructionExceptions : Obligations.OnlyIllegalInstructionExceptions := by
  intro i s e h
  cases hcsr : csrNumOf i with
  | none => exact absurd h (exec_ne_fault_of_csrNumOf_none hcsr s e)
  | some a =>
    obtain ⟨rd, src, w, hp⟩ := mem_csrForms_of_csrNumOf hcsr
    obtain ⟨reads, writes, f, hx⟩ := execIn_csrForm hp defaultParams s
    obtain ⟨hillegal, he⟩ := (csrInstructionIn_fault_iff ..).mp (hx ▸ exec_eq_execIn i s ▸ h)
    exact ⟨w, a, rfl, hillegal, encode_csrForm hp, he⟩

/-! ### The six CSR instructions complete (R171 to R176) -/

/-- Settles O12, the default case of O56. -/
theorem csrrwCompletes : Obligations.CsrrwCompletes := by
  intro s rd rs1 csr c hc hpc
  obtain ⟨hcsrrw, -⟩ := (configuredCsrInstructions defaultParams s rd csr rs1).2 c hc hpc
  exact hcsrrw

/-- Settles O13, the default case of O56. -/
theorem csrrsCompletes : Obligations.CsrrsCompletes := by
  intro s rd rs1 csr c hc hpc
  obtain ⟨-, hcsrrs, -⟩ := (configuredCsrInstructions defaultParams s rd csr rs1).2 c hc hpc
  exact hcsrrs

/-- Settles O14, the default case of O56. -/
theorem csrrcCompletes : Obligations.CsrrcCompletes := by
  intro s rd rs1 csr c hc hpc
  obtain ⟨-, -, hcsrrc, -⟩ := (configuredCsrInstructions defaultParams s rd csr rs1).2 c hc hpc
  exact hcsrrc

/-- Settles O15, the default case of O56. -/
theorem csrrwiCompletes : Obligations.CsrrwiCompletes := by
  intro s rd uimm csr c hc hpc
  obtain ⟨-, -, -, hcsrrwi, -⟩ := (configuredCsrInstructions defaultParams s rd csr uimm).2 c hc hpc
  exact hcsrrwi

/-- Settles O16, the default case of O56. -/
theorem csrrsiCompletes : Obligations.CsrrsiCompletes := by
  intro s rd uimm csr c hc hpc
  obtain ⟨-, -, -, -, hcsrrsi, -⟩ := (configuredCsrInstructions defaultParams s rd csr uimm).2 c hc hpc
  exact hcsrrsi

/-- Settles O17, the default case of O56. -/
theorem csrrciCompletes : Obligations.CsrrciCompletes := by
  intro s rd uimm csr c hc hpc
  obtain ⟨-, -, -, -, -, hcsrrci⟩ := (configuredCsrInstructions defaultParams s rd csr uimm).2 c hc hpc
  exact hcsrrci

end Sys2Proof.Proofs

/-! ## The frame of an instruction -/

namespace Sys2Proof.Proofs
open Sys2Proof.Machine

/-! ### What a write of one CSR leaves of the others (R164 to R170) -/

theorem csrWrite_ssp {c : Csr} (hc : c ≠ .ssp) (v : Word) (s : State) : (csrWrite c v s).ssp = s.ssp := by
  cases c with
  | ssp => exact absurd rfl hc
  | sstatus | vsstatus | mstatus | menvcfg | henvcfg | mseccfg | dcsr => simp [csrWrite]

theorem csrWrite_sspmp {c : Csr} (hc : c ≠ .mseccfg) (v : Word) (s : State) : (csrWrite c v s).sspmp = s.sspmp := by
  cases c with
  | mseccfg => exact absurd rfl hc
  | ssp | sstatus | vsstatus | mstatus | menvcfg | henvcfg | dcsr => simp [csrWrite]

theorem csrWrite_dcsr {c : Csr} (hc : c ≠ .dcsr) (v : Word) (s : State) : (csrWrite c v s).dcsr = s.dcsr := by
  cases c with
  | dcsr => exact absurd rfl hc
  | ssp | sstatus | vsstatus | mstatus | menvcfg | henvcfg | mseccfg => simp [csrWrite]

/-- `mstatus` is reached by its own writes, by one of `menvcfg` that opens the gate of its UBCFIE (R164), and with V=0 by those
of the window `sstatus` (R46). -/
theorem csrWrite_mstatus {c : Csr} {s : State} (hm : c ≠ .menvcfg) (hms : c ≠ .mstatus)
    (hwindow : c = .sstatus → s.virt = true) (v : Word) : (csrWrite c v s).mstatus = s.mstatus := by
  cases c with
  | menvcfg => exact absurd rfl hm
  | mstatus => exact absurd rfl hms
  | sstatus => exact csrWrite_sstatus_mstatus_of_virt (hwindow rfl) v
  | ssp | vsstatus | henvcfg | mseccfg | dcsr => simp [csrWrite]

/-- `vsstatus` is reached by its own writes, by one of `menvcfg` or `henvcfg` that opens the gate of its UBCFIE (R164, R165),
and with V=1 by those of the window `sstatus` (R46). -/
theorem csrWrite_vsstatus {c : Csr} {s : State} (hm : c ≠ .menvcfg) (hh : c ≠ .henvcfg) (hvs : c ≠ .vsstatus)
    (hwindow : c = .sstatus → s.virt = false) (v : Word) : (csrWrite c v s).vsstatus = s.vsstatus := by
  cases c with
  | menvcfg => exact absurd rfl hm
  | henvcfg => exact absurd rfl hh
  | vsstatus => exact absurd rfl hvs
  | sstatus => exact csrWrite_sstatus_vsstatus_of_not_virt (hwindow rfl) v
  | ssp | mstatus | mseccfg | dcsr => simp [csrWrite]

/-- Mode, pc, general registers and memory are no CSR's. -/
theorem sameHart_csrWrite (c : Csr) (v : Word) (s : State) : sameHart s (csrWrite c v s) := by
  simp [sameHart, sameMode, sameRegs, sameMemory, State.x]

/-! ### The draws (R164, R165) -/

/-- A write of `menvcfg` either finds the gate as it leaves it, or opens it and draws. -/
theorem csrWrite_menvcfg_cases (v : Word) (s : State) :
    csrWrite .menvcfg v s =
      if s.menvcfg.getLsbD 60 = false ∧ v.getLsbD 60 = true then drawAtMenvcfgGate (storeMenvcfg v s)
      else storeMenvcfg v s := by
  simp only [csrWrite, writeMenvcfg, menvcfgSBCFIE, Bool.and_eq_true, Bool.not_eq_true']

/-- A write of `henvcfg` either finds the gate of `vsstatus.UBCFIE` as it leaves it, or opens it and draws. -/
theorem csrWrite_henvcfg_cases (v : Word) (s : State) :
    csrWrite .henvcfg v s =
      if henvcfgSBCFIE s = false ∧ henvcfgSBCFIE (storeHenvcfg v s) = true then drawAtHenvcfgGate (storeHenvcfg v s)
      else storeHenvcfg v s := by
  simp only [csrWrite, writeHenvcfg, Bool.and_eq_true, Bool.not_eq_true']

theorem drawAtMenvcfgGate_mstatus_bit (s : State) (i : Nat) :
    (drawAtMenvcfgGate s).mstatus.getLsbD i = if i = 24 then Config.draw (s.draws + 1) else s.mstatus.getLsbD i :=
  getLsbD_putBit 24 _ s.mstatus i (by decide)

theorem drawAtMenvcfgGate_henvcfg_bit (s : State) (i : Nat) :
    (drawAtMenvcfgGate s).henvcfg.getLsbD i = if i = 60 then Config.draw s.draws else s.henvcfg.getLsbD i :=
  getLsbD_putBit 60 _ s.henvcfg i (by decide)

theorem drawAtMenvcfgGate_vsstatus_bit (s : State) (i : Nat) :
    (drawAtMenvcfgGate s).vsstatus.getLsbD i =
      if i = 24 ∧ Config.draw s.draws = true then Config.draw (s.draws + 2) else s.vsstatus.getLsbD i := by
  cases hd : Config.draw s.draws with
  | false => simp [drawAtMenvcfgGate, hd]
  | true => simpa [drawAtMenvcfgGate, hd] using getLsbD_putBit 24 _ s.vsstatus i (by decide)

theorem drawAtHenvcfgGate_vsstatus_bit (s : State) (i : Nat) :
    (drawAtHenvcfgGate s).vsstatus.getLsbD i = if i = 24 then Config.draw s.draws else s.vsstatus.getLsbD i :=
  getLsbD_putBit 24 _ s.vsstatus i (by decide)

/-- A write of `menvcfg` reaches UBCFIE at most, of the fields of `mstatus` and `vsstatus` (R64). -/
theorem csrWrite_menvcfg_bit_of_ne {i : Nat} (hi : i ≠ 24) (v : Word) (s : State) :
    (csrWrite .menvcfg v s).mstatus.getLsbD i = s.mstatus.getLsbD i ∧
    (csrWrite .menvcfg v s).vsstatus.getLsbD i = s.vsstatus.getLsbD i := by
  rw [csrWrite_menvcfg_cases]
  split
  · rw [drawAtMenvcfgGate_mstatus_bit, drawAtMenvcfgGate_vsstatus_bit]
    simp [hi]
  · simp

theorem csrWrite_henvcfg_vsstatus_bit_of_ne {i : Nat} (hi : i ≠ 24) (v : Word) (s : State) :
    (csrWrite .henvcfg v s).vsstatus.getLsbD i = s.vsstatus.getLsbD i := by
  rw [csrWrite_henvcfg_cases]
  split
  · rw [drawAtHenvcfgGate_vsstatus_bit, if_neg hi, storeHenvcfg_vsstatus]
  · rw [storeHenvcfg_vsstatus]

/-! ### The previous-ELP fields (R38, R53) -/

/-- `mstatus.MPELP` is no field of `sstatus` (R45), and no gate of R64 stands before it. -/
theorem mstatusMPELP_csrWrite {c : Csr} (hc : c ≠ .mstatus) (v : Word) (s : State) :
    mstatusMPELP (csrWrite c v s) = mstatusMPELP s := by
  refine congrArg elpOfBit ?_
  cases c with
  | mstatus => exact absurd rfl hc
  | menvcfg => exact (csrWrite_menvcfg_bit_of_ne (by decide) v s).1
  | sstatus =>
    have hdrawn : (drawnMask sstatusLayout).getLsbD 26 = false := by decide
    have hcfi : (cfiMask sstatusLayout).getLsbD 26 = false := by decide
    rw [csrWrite, writeSstatus_mstatus_bit, hdrawn, getLsbD_gatedMask _ _ _ _ (by decide), hcfi]
    simp
  | ssp | vsstatus | henvcfg | mseccfg | dcsr => simp [csrWrite]

theorem mstatusSPELP_csrWrite {c : Csr} {s : State} (hc : c ≠ .mstatus) (hwindow : c = .sstatus → s.virt = true)
    (v : Word) : mstatusSPELP (csrWrite c v s) = mstatusSPELP s := by
  refine congrArg elpOfBit ?_
  by_cases hm : c = .menvcfg
  · subst hm
    exact (csrWrite_menvcfg_bit_of_ne (by decide) v s).1
  · rw [csrWrite_mstatus hm hc hwindow]

theorem vsstatusSPELP_csrWrite {c : Csr} {s : State} (hc : c ≠ .vsstatus) (hwindow : c = .sstatus → s.virt = false)
    (v : Word) : vsstatusSPELP (csrWrite c v s) = vsstatusSPELP s := by
  refine congrArg elpOfBit ?_
  by_cases hm : c = .menvcfg
  · subst hm
    exact (csrWrite_menvcfg_bit_of_ne (by decide) v s).2
  · by_cases hh : c = .henvcfg
    · subst hh
      exact csrWrite_henvcfg_vsstatus_bit_of_ne (by decide) v s
    · rw [csrWrite_vsstatus hm hh hc hwindow]

/-! ### What an instruction leaves unchanged (R110, R181, R243) -/

/-- A part of the state that neither a write of a general register nor the pc is in, and that the instruction's own CSR write
leaves as it was, is unchanged by the instruction. -/
theorem exec_preserves {α : Type} (F : State → α)
    (hF : ∀ (reads : Bool) (rd : Reg) (old pc : Word) (u : State), F { setXIf reads rd old u with pc := pc } = F u)
    {i : Instr} {s t : State} (h : exec i s = .next t)
    (hwrite : ∀ c : Csr, csrNumOf i = some (csrAddr c) → csrAccess (csrAddr c) s = .ok c →
      ∀ v : Word, F (csrWrite c v s) = F s) : F t = F s := by
  obtain ⟨c, rd, reads, writes, v, hnum, -, hok, rfl⟩ | ⟨rd, -, -, rfl⟩ | ⟨-, -, rfl⟩ := (exec_next_cases h).2
  · rw [hF]
    cases writes with
    | false => rfl
    | true => exact hwrite c hnum hok v
  · exact hF true rd 0#64 _ s
  · exact hF false 0#5 0#64 _ s

theorem x_setXIf_of_ne {r rd : Reg} (hr : r ≠ rd) (reads : Bool) (v : Word) (s : State) :
    (setXIf reads rd v s).x r = s.x r := by
  cases reads with
  | false => rfl
  | true => exact (x_setX s rd r v).trans (if_neg fun h => hr h.1)

/-- A register other than the destination keeps its value. -/
theorem exec_x_of_destOf_ne {i : Instr} {s t : State} (h : exec i s = .next t) {r : Reg} (hr : destOf i ≠ some r) :
    t.x r = s.x r := by
  have hne {rd : Reg} (hdest : destOf i = some rd) : r ≠ rd := by
    rintro rfl
    exact hr hdest
  obtain ⟨c, rd, reads, writes, v, -, hdest, -, rfl⟩ | ⟨rd, -, hdest, rfl⟩ | ⟨-, -, rfl⟩ := (exec_next_cases h).2
  · exact (x_setXIf_of_ne (hne hdest) reads _ _).trans (x_csrWriteIf ..)
  · exact x_setXIf_of_ne (hne hdest) true 0#64 s
  · rfl

/-- The check passes for `dcsr` in no mode (R162). -/
theorem ne_dcsr_of_csrAccess_ok {c : Csr} {s : State} (h : csrAccess (csrAddr c) s = .ok c) : c ≠ .dcsr := by
  rintro rfl
  have hpriv : csrPrivOk .dcsr s.priv s.virt = .ok := ((csrAccess_ok_iff ..).mp h).2.1
  cases hpriv

/-- Settles O40: each register is reached through the CSRs that hold it, and mode, memory and `dcsr` through none. -/
theorem instructionFrame : Obligations.InstructionFrame := by
  intro i s t h
  have hne {c d : Csr} (hc : csrNumOf i = some (csrAddr c)) (hd : csrNumOf i ≠ some (csrAddr d)) : c ≠ d := by
    rintro rfl
    exact hd hc
  have hwindow {c : Csr} {v : Bool} (hc : csrNumOf i = some (csrAddr c))
      (hV : csrNumOf i = some (csrAddr .sstatus) → s.virt = v) : c = .sstatus → s.virt = v := by
    rintro rfl
    exact hV hc
  have hmem : t.mem = s.mem := exec_preserves State.mem (by simp) h (by simp)
  refine ⟨⟨?_, ?_⟩, fun a => ?_, hmem, ?_, fun r => exec_x_of_destOf_ne h, x_zero t, fun hssp => ?_, fun hm => ?_,
    fun hsec => ⟨?_, ?_, ?_⟩, fun hm => ⟨fun hh => ⟨?_, fun hvs hV => ?_⟩, fun hms hV => ?_⟩, fun hms => ?_,
    fun hms hV => ?_, fun hvs hV => ?_⟩
  · exact exec_preserves State.priv (by simp) h (by simp)
  · exact exec_preserves State.virt (by simp) h (by simp)
  · rw [hmem]
  · exact exec_preserves State.dcsr (by simp) h fun c _ hok v => csrWrite_dcsr (ne_dcsr_of_csrAccess_ok hok) v s
  · exact exec_preserves State.ssp (by simp) h fun c hc _ v => csrWrite_ssp (hne hc hssp) v s
  · exact exec_preserves State.menvcfg (by simp) h fun c hc _ v => csrWrite_menvcfg (hne hc hm) v s
  · exact exec_preserves State.mseccfg (by simp) h fun c hc _ v => csrWrite_mseccfg (hne hc hsec) v s
  · exact exec_preserves State.sspmp (by simp) h fun c hc _ v => csrWrite_sspmp (hne hc hsec) v s
  · exact exec_preserves State.elp (by simp) h fun c hc _ v => csrWrite_elp (hne hc hsec) v s
  · exact exec_preserves State.henvcfg (by simp) h fun c hc _ v => csrWrite_henvcfg (hne hc hm) (hne hc hh) v s
  · exact exec_preserves State.vsstatus (by simp) h fun c hc _ v =>
      csrWrite_vsstatus (hne hc hm) (hne hc hh) (hne hc hvs) (hwindow hc hV) v
  · exact exec_preserves State.mstatus (by simp) h fun c hc _ v =>
      csrWrite_mstatus (hne hc hm) (hne hc hms) (hwindow hc hV) v
  · exact exec_preserves mstatusMPELP (by simp [mstatusMPELP]) h fun c hc _ v => mstatusMPELP_csrWrite (hne hc hms) v s
  · exact exec_preserves mstatusSPELP (by simp [mstatusSPELP]) h fun c hc _ v =>
      mstatusSPELP_csrWrite (hne hc hms) (hwindow hc hV) v
  · exact exec_preserves vsstatusSPELP (by simp [vsstatusSPELP]) h fun c hc _ v =>
      vsstatusSPELP_csrWrite (hne hc hvs) (hwindow hc hV) v

end Sys2Proof.Proofs

/-! ## What each CSR returns and stores, bit by bit -/

namespace Sys2Proof.Proofs
open Sys2Proof.Machine

/-! ### The register behind a CSR, and the CFI bits a write of it reaches -/

/-- The stored register that holds the fields of a CSR; behind the window `sstatus` it is the target T of R167. -/
def storedCsr (c : Csr) (s : State) : Word :=
  match c with
  | .ssp => s.ssp
  | .sstatus => if s.virt then s.vsstatus else s.mstatus
  | .vsstatus => s.vsstatus
  | .mstatus => s.mstatus
  | .menvcfg => s.menvcfg
  | .henvcfg => s.henvcfg
  | .mseccfg => s.mseccfg
  | .dcsr => s.dcsr.setWidth 64

/-- The gate of UBCFIE in the window `sstatus`: that of its target (R46, R64). -/
def sstatusGate (s : State) : Bool := if s.virt then henvcfgSBCFIE s else menvcfgSBCFIE s

/-- The CFI bits of the stored register that a write reaches (R64, R164 to R169); SSPMP has a field of its own. -/
def writtenMask (c : Csr) (s : State) : Word :=
  match c with
  | .ssp => BitVec.allOnes 64
  | .sstatus => gatedMask sstatusLayout 24 (sstatusGate s)
  | .vsstatus => gatedMask vsstatusLayout 24 (henvcfgSBCFIE s)
  | .mstatus => gatedMask mstatusLayout 24 (menvcfgSBCFIE s)
  | .menvcfg => cfiMask menvcfgLayout
  | .henvcfg => gatedMask henvcfgLayout 60 (menvcfgSBCFIE s)
  | .mseccfg => cfiMask mseccfgLayout &&& ~~~sspmpMask
  | .dcsr => cfiMask dcsrLayout

/-- A write of a CSR with drawn-only fields is one operation on the register behind it: CFI bits as written, drawn-only bits
as `legalize_other` says, the others as before (R68, R69). -/
theorem storedCsr_csrWrite {c : Csr} (hssp : c ≠ .ssp) (hdcsr : c ≠ .dcsr) (v : Word) (s : State) :
    storedCsr c (csrWrite c v s) =
      writeFields (storedCsr c s) (writtenMask c s) v (drawnMask (layoutOf c)) (Config.legalizeOther c (csrRead c s) v) := by
  cases c with
  | ssp => exact absurd rfl hssp
  | dcsr => exact absurd rfl hdcsr
  | mstatus | vsstatus => rfl
  | menvcfg => exact writeMenvcfg_menvcfg v s
  | henvcfg => exact writeHenvcfg_henvcfg v s
  | mseccfg => exact writeMseccfg_mseccfg v s
  | sstatus =>
    cases hV : s.virt <;>
      simp [storedCsr, csrWrite, writeSstatus, writtenMask, sstatusGate, layoutOf, csrRead, hV]

/-! ### Drawn-only bits (R68) -/

theorem getLsbD_of_subset {m r : Word} (h : ~~~r &&& m = 0) {i : Nat} (hi : m.getLsbD i = true) :
    r.getLsbD i = true := by
  have hb := getLsbD_false_of_and_eq_zero h hi
  rw [BitVec.getLsbD_not, decide_eq_true (BitVec.lt_of_getLsbD hi)] at hb
  simpa using hb

/-- A read shows the drawn-only fields. -/
theorem readMask_of_drawnMask (c : Csr) {i : Nat} (hi : (drawnMask (layoutOf c)).getLsbD i = true) :
    (readMask (layoutOf c)).getLsbD i = true := by
  refine getLsbD_of_subset ?_ hi
  cases c <;> decide

/-- At the drawn-only positions a read shows the stored register: the gated bit and SSPMP stand elsewhere. -/
theorem csrRead_and_drawnMask {c : Csr} (hssp : c ≠ .ssp) (s : State) :
    csrRead c s &&& drawnMask (layoutOf c) = storedCsr c s &&& readMask (layoutOf c) &&& drawnMask (layoutOf c) := by
  cases c with
  | ssp => exact absurd rfl hssp
  | menvcfg | dcsr => rfl
  | henvcfg | mstatus | vsstatus => exact putBit_and (by decide) (by decide) ..
  | mseccfg => exact merge_and (by decide) ..
  | sstatus =>
    simp only [csrRead, readSstatus, storedCsr]
    split
    · exact putBit_and (by decide) (by decide) ..
    · exact putBit_and (by decide) (by decide) ..

theorem csrRead_drawnBit {c : Csr} {i : Nat} (hi : (drawnMask (layoutOf c)).getLsbD i = true) (s : State)
    (hssp : c ≠ .ssp := by decide) : (csrRead c s).getLsbD i = (storedCsr c s).getLsbD i := by
  have h := congrArg (·.getLsbD i) (csrRead_and_drawnMask hssp s)
  simpa only [BitVec.getLsbD_and, hi, readMask_of_drawnMask c hi, Bool.and_true] using h

/-- A write leaves in a drawn-only bit what legalisation of the value read and the value written gives. -/
theorem csrWrite_drawnBit {c : Csr} {i : Nat} (hi : (drawnMask (layoutOf c)).getLsbD i = true) (v : Word) (s : State)
    (hssp : c ≠ .ssp := by decide) (hdcsr : c ≠ .dcsr := by decide) :
    (storedCsr c (csrWrite c v s)).getLsbD i = (Config.legalizeOther c (csrRead c s) v).getLsbD i := by
  rw [storedCsr_csrWrite hssp hdcsr, getLsbD_writeFields, if_pos hi]

/-! ### Reserved bits (R69) -/

theorem getLsbD_not_of_getLsbD_false {m : Word} {i : Nat} (hlt : i < 64) (h : m.getLsbD i = false) :
    (~~~m).getLsbD i = true := by
  rw [BitVec.getLsbD_not, h, decide_eq_true hlt]
  rfl

theorem csrRead_reservedBit {c : Csr} {i : Nat} (hi : (readMask (layoutOf c)).getLsbD i = false) (s : State)
    (hssp : c ≠ .ssp := by decide) : (csrRead c s).getLsbD i = false := by
  by_cases hlt : i < 64
  · exact getLsbD_false_of_and_eq_zero (csrRead_reserved hssp s) (getLsbD_not_of_getLsbD_false hlt hi)
  · exact BitVec.getLsbD_of_ge _ i (Nat.le_of_not_lt hlt)

/-- No CFI bit is a reserved one, gated or not. -/
theorem writtenMask_reserved {c : Csr} (hssp : c ≠ .ssp) (s : State) :
    writtenMask c s &&& ~~~readMask (layoutOf c) = 0 := by
  cases c with
  | ssp => exact absurd rfl hssp
  | menvcfg | mseccfg | dcsr => rw [writtenMask]; decide
  | sstatus | vsstatus | mstatus | henvcfg => exact gatedMask_and (by decide) ..

theorem csrWrite_reservedBit {c : Csr} {i : Nat} (hi : (readMask (layoutOf c)).getLsbD i = false) (v : Word) (s : State)
    (hssp : c ≠ .ssp := by decide) (hdcsr : c ≠ .dcsr := by decide) :
    (storedCsr c (csrWrite c v s)).getLsbD i = (storedCsr c s).getLsbD i := by
  by_cases hlt : i < 64
  · have hres := getLsbD_not_of_getLsbD_false hlt hi
    have hdrawn : drawnMask (layoutOf c) &&& ~~~readMask (layoutOf c) = 0 := by cases c <;> decide
    rw [storedCsr_csrWrite hssp hdcsr, getLsbD_writeFields, getLsbD_false_of_and_eq_zero hdrawn hres,
      getLsbD_false_of_and_eq_zero (writtenMask_reserved hssp s) hres]
    rfl
  · rw [BitVec.getLsbD_of_ge _ i (Nat.le_of_not_lt hlt), BitVec.getLsbD_of_ge _ i (Nat.le_of_not_lt hlt)]

/-! ### The gated bit (R64) -/

/-- What a write leaves in a gated bit, with the gate as the condition. -/
theorem ite_shut {α : Type} (i : Nat) (gate : Bool) (old new : α) :
    (if i = i ∧ gate = false then old else new) = if gate then new else old := by
  cases gate <;> simp

/-! ### The positions of the figures (R25, R35, R45, R57) -/

theorem menvcfg_reserved : ∀ i < 64, (1 ≤ i ∧ i ≤ 3) ∨ (8 ≤ i ∧ i ≤ 58) →
    (readMask menvcfgLayout).getLsbD i = false := by
  rw [readMask_menvcfg]; decide

theorem menvcfg_drawn : ∀ i ∈ [0, 4, 5, 6, 7, 61, 62, 63], (drawnMask menvcfgLayout).getLsbD i = true := by
  rw [drawnMask_menvcfg]; decide

theorem mstatus_reserved : ∀ i < 64, i = 0 ∨ i = 2 ∨ i = 4 ∨ (27 ≤ i ∧ i ≤ 31) ∨ (38 ≤ i ∧ i ≤ 62) →
    (readMask mstatusLayout).getLsbD i = false := by
  rw [readMask_mstatus]; decide

theorem mstatus_drawn : ∀ i < 64, i = 1 ∨ i = 3 ∨ (5 ≤ i ∧ i ≤ 22) ∨ (32 ≤ i ∧ i ≤ 37) ∨ i = 63 →
    (drawnMask mstatusLayout).getLsbD i = true := by
  rw [drawnMask_mstatus]; decide

theorem sstatus_reserved : ∀ i < 64,
    i = 0 ∨ (2 ≤ i ∧ i ≤ 4) ∨ i = 7 ∨ (11 ≤ i ∧ i ≤ 12) ∨ i = 17 ∨ (20 ≤ i ∧ i ≤ 22) ∨
    (26 ≤ i ∧ i ≤ 31) ∨ (34 ≤ i ∧ i ≤ 62) → (readMask sstatusLayout).getLsbD i = false := by
  rw [readMask_sstatus]; decide

theorem sstatus_drawn : ∀ i < 64,
    i = 1 ∨ i = 5 ∨ i = 6 ∨ (8 ≤ i ∧ i ≤ 10) ∨ (13 ≤ i ∧ i ≤ 16) ∨ i = 18 ∨ i = 19 ∨
    i = 32 ∨ i = 33 ∨ i = 63 → (drawnMask sstatusLayout).getLsbD i = true := by
  rw [drawnMask_sstatus]; decide

theorem mseccfg_reserved : ∀ i < 64, (3 ≤ i ∧ i ≤ 7) ∨ (17 ≤ i ∧ i ≤ 63) →
    (readMask mseccfgLayout).getLsbD i = false := by
  rw [readMask_mseccfg]; decide

theorem mseccfg_drawn : ∀ i < 64, i ≤ 2 ∨ i = 8 ∨ i = 9 → (drawnMask mseccfgLayout).getLsbD i = true := by
  rw [drawnMask_mseccfg]; decide

/-! ### menvcfg (R164) -/

/-- Settles O18: each bit by its kind; the draws are those of the opening gate, and a shut gate leaves Zicfiss inactive. -/
theorem menvcfgReadAndWrite : Obligations.MenvcfgReadAndWrite := by
  intro v s
  have hclear (hv : v.getLsbD 60 = false) : menvcfgSBCFIE (csrWrite .menvcfg v s) = false :=
    (csrWrite_menvcfg_cfiBit (by decide) v s).trans hv
  refine ⟨csrRead_menvcfg_cfiBit (by decide) s, csrRead_menvcfg_cfiBit (by decide) s,
    fun i hi => csrRead_reservedBit (c := .menvcfg) (menvcfg_reserved i (by omega) hi) s,
    fun i hi => csrRead_drawnBit (c := .menvcfg) (menvcfg_drawn i hi) s,
    csrWrite_menvcfg_cfiBit (by decide) v s, csrWrite_menvcfg_cfiBit (by decide) v s,
    fun i hi => csrWrite_drawnBit (c := .menvcfg) (menvcfg_drawn i hi) v s,
    fun i hi => csrWrite_reservedBit (c := .menvcfg) (menvcfg_reserved i (by omega) hi) v s,
    fun hopen => ?_, fun hsame => ?_, fun hv p virt hp => ssActive_of_menvcfg_gate (hclear hv) hp virt,
    sameHart_csrWrite .menvcfg v s, ?_⟩
  · rw [csrWrite_menvcfg_cases, if_pos hopen]
    exact ⟨_, _, _, drawAtMenvcfgGate_henvcfg_bit _, drawAtMenvcfgGate_mstatus_bit _, drawAtMenvcfgGate_vsstatus_bit _⟩
  · rw [csrWrite_menvcfg_cases, if_neg hsame]
    exact ⟨rfl, rfl, rfl⟩
  · simp [csrWrite]

/-! ### henvcfg (R165) -/

/-- The value of SBCFIE that a write of `henvcfg` leaves does not depend on the draw it may make. -/
theorem henvcfgSBCFIE_csrWrite_henvcfg (v : Word) (s : State) :
    henvcfgSBCFIE (csrWrite .henvcfg v s) = henvcfgSBCFIE (storeHenvcfg v s) := by
  simp [henvcfgSBCFIE, menvcfgSBCFIE, csrWrite]

/-- Settles O19: each bit by its kind, bit 60 behind its gate; the draw is the one of the gate it opens. -/
theorem henvcfgReadAndWrite : Obligations.HenvcfgReadAndWrite := by
  intro v s
  rw [csrRead_henvcfg_sbcfie (csrWrite .henvcfg v s), henvcfgSBCFIE_csrWrite_henvcfg, csrRead_henvcfg_sbcfie]
  refine ⟨rfl, csrRead_henvcfg_cfiBit (by decide) s,
    fun i hi => csrRead_reservedBit (c := .henvcfg) (menvcfg_reserved i (by omega) hi) s,
    fun i hi => csrRead_drawnBit (c := .henvcfg) (menvcfg_drawn i hi) s,
    (csrWrite_henvcfg_cfiBit (by decide) v s).trans (ite_shut ..),
    csrWrite_henvcfg_cfiBit (by decide) v s, fun i hi => csrWrite_drawnBit (c := .henvcfg) (menvcfg_drawn i hi) v s,
    fun i hi => csrWrite_reservedBit (c := .henvcfg) (menvcfg_reserved i (by omega) hi) v s,
    fun hopen => ?_, fun hsame => ?_, sameHart_csrWrite .henvcfg v s, ?_⟩
  · rw [csrWrite_henvcfg_cases, if_pos hopen]
    exact ⟨_, drawAtHenvcfgGate_vsstatus_bit _⟩
  · rw [csrWrite_henvcfg_cases, if_neg hsame]
    rfl
  · simp [csrWrite]

/-! ### mstatus (R166) -/

/-- Settles O20: each bit by its kind, bit 24 behind its gate. -/
theorem mstatusReadAndWrite : Obligations.MstatusReadAndWrite := by
  intro v s
  have hcfi : ∀ i ∈ [23, 25, 26], (cfiMask mstatusLayout).getLsbD i = true ∧ i ≠ 24 := by decide
  refine ⟨csrRead_mstatus_ubcfie s, fun i hi => ?_,
    fun i hi => csrRead_reservedBit (c := .mstatus) (mstatus_reserved i (by omega) hi) s,
    fun i hi => ⟨csrRead_drawnBit (c := .mstatus) (mstatus_drawn i (by omega) hi) s,
      csrWrite_drawnBit (c := .mstatus) (mstatus_drawn i (by omega) hi) v s⟩, fun i hi => ?_,
    (csrWrite_mstatus_cfiBit (by decide) v s).trans (ite_shut ..),
    fun i hi => csrWrite_reservedBit (c := .mstatus) (mstatus_reserved i (by omega) hi) v s,
    sameHart_csrWrite .mstatus v s, ?_⟩
  · obtain ⟨hbit, hne⟩ := hcfi i hi
    rw [csrRead_mstatus_cfiBit hbit, if_neg hne]
  · obtain ⟨hbit, hne⟩ := hcfi i hi
    rw [csrWrite_mstatus_cfiBit hbit, if_neg fun h => hne h.1]
  · simp [csrWrite]

/-! ### sstatus and vsstatus (R167, R168) -/

/-- A CFI bit of the window reads as its target's, bit 24 through the target's gate. -/
theorem csrRead_sstatus_targetBit {i : Nat} (hi : (cfiMask sstatusLayout).getLsbD i = true) (s : State) :
    (csrRead .sstatus s).getLsbD i =
      if i = 24 then sstatusGate s && (storedCsr .sstatus s).getLsbD 24 else (storedCsr .sstatus s).getLsbD i := by
  rw [csrRead_sstatus_cfiBit hi, sstatusGate, storedCsr]
  cases s.virt <;> rfl

/-- A write of the window stores a CFI bit in its target, bit 24 only while the target's gate is open. -/
theorem csrWrite_sstatus_targetBit {i : Nat} (hi : (cfiMask sstatusLayout).getLsbD i = true) (v : Word) (s : State) :
    (storedCsr .sstatus (csrWrite .sstatus v s)).getLsbD i =
      if i = 24 ∧ sstatusGate s = false then (storedCsr .sstatus s).getLsbD i else v.getLsbD i := by
  rw [storedCsr_csrWrite (by decide) (by decide)]
  exact cfiApart_sstatus.writeFields_gated_bit hi ..

/-- Settles O21: T is the register behind the window before and after the write, so each bit is as its kind says of that
register. -/
theorem sstatusReadAndWrite : Obligations.SstatusReadAndWrite := by
  intro v s T gate hV0 hV1
  obtain ⟨hT, hgate⟩ : (∀ u : State, u.virt = s.virt → T u = storedCsr .sstatus u) ∧ gate = sstatusGate s := by
    cases hV : s.virt with
    | false =>
      obtain ⟨rfl, rfl⟩ := hV0 hV
      exact ⟨fun u hu => by simp [storedCsr, hu], by simp [sstatusGate, menvcfgSBCFIE, hV]⟩
    | true =>
      obtain ⟨rfl, rfl⟩ := hV1 hV
      exact ⟨fun u hu => by simp [storedCsr, hu], by simp [sstatusGate, henvcfgSBCFIE, menvcfgSBCFIE, hV]⟩
  rw [hT s rfl, hT (csrWrite .sstatus v s) (csrWrite_virt ..), hgate]
  refine ⟨csrRead_sstatus_targetBit (by decide) s, csrRead_sstatus_targetBit (by decide) s,
    csrRead_sstatus_targetBit (by decide) s,
    fun i hi => ⟨csrRead_reservedBit (c := .sstatus) (sstatus_reserved i (by omega) hi) s,
      csrWrite_reservedBit (c := .sstatus) (sstatus_reserved i (by omega) hi) v s⟩,
    fun i hi => ⟨csrRead_drawnBit (c := .sstatus) (sstatus_drawn i (by omega) hi) s,
      csrWrite_drawnBit (c := .sstatus) (sstatus_drawn i (by omega) hi) v s⟩,
    csrWrite_sstatus_targetBit (by decide) v s, csrWrite_sstatus_targetBit (by decide) v s,
    (csrWrite_sstatus_targetBit (by decide) v s).trans (ite_shut ..),
    fun hV => csrWrite_sstatus_vsstatus_of_not_virt hV v, fun hV => csrWrite_sstatus_mstatus_of_virt hV v,
    sameHart_csrWrite .sstatus v s, ?_⟩
  simp [csrWrite]

/-- Settles O22: each bit by its kind, bit 24 behind two gates. -/
theorem vsstatusReadAndWrite : Obligations.VsstatusReadAndWrite := by
  intro v s
  have hcfi : ∀ i ∈ [23, 25], (cfiMask vsstatusLayout).getLsbD i = true ∧ i ≠ 24 := by decide
  refine ⟨csrRead_vsstatus_ubcfie s, fun i hi => ?_,
    fun i hi => ⟨csrRead_reservedBit (c := .vsstatus) (sstatus_reserved i (by omega) hi) s,
      csrWrite_reservedBit (c := .vsstatus) (sstatus_reserved i (by omega) hi) v s⟩,
    fun i hi => ⟨csrRead_drawnBit (c := .vsstatus) (sstatus_drawn i (by omega) hi) s,
      csrWrite_drawnBit (c := .vsstatus) (sstatus_drawn i (by omega) hi) v s⟩,
    (csrWrite_vsstatus_cfiBit (by decide) v s).trans (ite_shut ..),
    sameHart_csrWrite .vsstatus v s, ?_⟩
  · obtain ⟨hbit, hne⟩ := hcfi i hi
    rw [csrRead_vsstatus_cfiBit hbit, if_neg hne, csrWrite_vsstatus_cfiBit hbit, if_neg fun h => hne h.1]
    exact ⟨rfl, rfl⟩
  · simp [csrWrite]

/-! ### mseccfg (R169, R178) -/

/-- SSPMP reads from its own field of the state. -/
theorem csrRead_mseccfg_sspmp (s : State) : (csrRead .mseccfg s).extractLsb' 11 6 = s.sspmp := by
  refine BitVec.eq_of_getLsbD_eq fun i hi => ?_
  have hmask : ∀ j < 6, sspmpMask.getLsbD (11 + j) = true := by decide
  rw [BitVec.getLsbD_extractLsb', decide_eq_true hi, Bool.true_and, csrRead, readMseccfg_bit, if_pos (hmask i hi),
    placeSspmp_bit, if_pos (by omega), Nat.add_sub_cancel_left]

theorem csrWrite_mseccfg_sspmp (v : Word) (s : State) :
    (csrWrite .mseccfg v s).sspmp = legalSspmp s.sspmp (v.extractLsb' 11 6) :=
  writeMseccfg_sspmp v s

/-- ELP is cleared by a write in M-mode that stores 0 in MFCFIE, and otherwise kept (R178). -/
theorem csrWrite_mseccfg_elp (v : Word) (s : State) :
    (csrWrite .mseccfg v s).elp = if s.priv = .M ∧ v.getLsbD 10 = false then .noLpExpected else s.elp := by
  have hmfcfie : mseccfgMFCFIE (storeMseccfg v s) = v.getLsbD 10 := by
    rw [← csrWrite_mseccfg_mfcfie v s, csrWrite, writeMseccfg_mseccfg]
    rfl
  rw [csrWrite, writeMseccfg, clearElpIfInactive, hmfcfie, storeMseccfg_priv]
  split <;> rfl

/-- Settles O23: each bit by its kind; SSPMP and ELP, which stand apart from the stored register, by their own rules. -/
theorem mseccfgReadAndWrite : Obligations.MseccfgReadAndWrite := by
  intro v s
  have hsspmp := csrWrite_mseccfg_sspmp v s
  refine ⟨fun i hi => ⟨csrRead_drawnBit (c := .mseccfg) (mseccfg_drawn i (by omega) hi) s,
      csrWrite_drawnBit (c := .mseccfg) (mseccfg_drawn i (by omega) hi) v s⟩,
    fun i hi => ⟨csrRead_reservedBit (c := .mseccfg) (mseccfg_reserved i (by omega) hi) s,
      csrWrite_reservedBit (c := .mseccfg) (mseccfg_reserved i (by omega) hi) v s⟩,
    csrRead_mseccfg_mfcfie s, csrRead_mseccfg_sspmp s, csrWrite_mseccfg_mfcfie v s, hsspmp,
    hsspmp ▸ sspmpLegal_legalSspmp .., csrWrite_mseccfg_elp v s, sameHart_csrWrite .mseccfg v s, ?_⟩
  simp [csrWrite]

end Sys2Proof.Proofs

/-! ## Zicfiss words: their dispatch, and the fall-back to the plain Zimop and Zcmop behaviours -/

namespace Sys2Proof.Proofs
open Sys2Proof.Machine

/-! ### Dispatch (R190, R194) -/

theorem exec_mopRN (n : BitVec 5) (rd rs1 : Reg) (s : State) :
    exec (.mopRN n rd rs1) s = zicfissDispatch (inZicfiss32 (mopRWord n rs1 rd)) (zimopBehaviour rd s) s := rfl

theorem exec_mopRRN (n : BitVec 3) (rd rs1 rs2 : Reg) (s : State) :
    exec (.mopRRN n rd rs1 rs2) s =
      zicfissDispatch (inZicfiss32 (mopRRWord n rs2 rs1 rd)) (zimopBehaviour rd s) s := rfl

theorem exec_cmopN (n : BitVec 4) (s : State) :
    exec (.cmopN n) s = zicfissDispatch (inZicfiss16 (cmopHalf n)) (zcmopBehaviour s) s := rfl

/-- M-mode is the one mode without an enable for Zicfiss (R65). -/
theorem ssActive_eq_none_iff (p : Priv) (v : Bool) (s : State) : ssActive p v s = none ↔ p = .M := by
  cases p with
  | M => exact iff_of_true rfl rfl
  | S | U => cases v <;> exact iff_of_false nofun nofun

theorem zicfissDispatch_eq_ite (m : Bool) (p : Host.Outcome State Fault Refusal) (s : State) :
    zicfissDispatch m p s =
      if m = false then p
      else if s.priv = .M then .refused .zicfissInMMode
      else if ssActive s.priv s.virt s = some true then .refused .zicfissActiveBehaviour
      else p := by
  cases m with
  | false => rfl
  | true =>
    have hM := ssActive_eq_none_iff s.priv s.virt s
    cases ha : ssActive s.priv s.virt s with
    | none => rw [zicfissDispatch, ha, if_pos rfl, if_neg nofun, if_pos (hM.mp ha)]
    | some active =>
      have hpriv : s.priv ≠ .M := fun h => nomatch ha ▸ hM.mpr h
      cases active <;> simp [zicfissDispatch, ha, hpriv]

/-- Settles O37: the three rows share one dispatch. -/
theorem mopDispatch : Obligations.MopDispatch := by
  intro s n m k rd rs1 rs2
  rw [exec_mopRN, exec_mopRRN, exec_cmopN]
  exact ⟨zicfissDispatch_eq_ite .., zicfissDispatch_eq_ite .., zicfissDispatch_eq_ite ..⟩

/-! ### The fall-back never reads `ssp` (R191, R192) -/

/-- The state with another value in `ssp`. -/
def withSsp (v : Word) (s : State) : State := { s with ssp := v }

theorem ssActive_withSsp (v : Word) (s : State) :
    ssActive (withSsp v s).priv (withSsp v s).virt (withSsp v s) = ssActive s.priv s.virt s := rfl

theorem setX_withSsp (rd : Reg) (w v : Word) (s : State) :
    (withSsp v s).setX rd w = withSsp v (s.setX rd w) := by
  unfold State.setX
  split <;> rfl

theorem advance_withSsp (n : Nat) (v : Word) (s : State) :
    advance n (withSsp v s) = mapNext (withSsp v) (advance n s) := by
  unfold advance withSsp
  split <;> rfl

theorem zimopBehaviour_withSsp (rd : Reg) (v : Word) (s : State) :
    zimopBehaviour rd (withSsp v s) = mapNext (withSsp v) (zimopBehaviour rd s) := by
  rw [zimopBehaviour, setX_withSsp]
  exact advance_withSsp 4 v _

theorem zcmopBehaviour_withSsp (v : Word) (s : State) :
    zcmopBehaviour (withSsp v s) = mapNext (withSsp v) (zcmopBehaviour s) :=
  advance_withSsp 2 v s

/-- Which way a MOP word is dispatched does not depend on `ssp`, so only its plain behaviour could. -/
theorem zicfissDispatch_withSsp (m : Bool) (p : Host.Outcome State Fault Refusal) (v : Word) (s : State) :
    zicfissDispatch m (mapNext (withSsp v) p) (withSsp v s) = mapNext (withSsp v) (zicfissDispatch m p s) := by
  unfold zicfissDispatch
  rw [ssActive_withSsp]
  cases m with
  | false => rfl
  | true =>
    cases ssActive s.priv s.virt s with
    | none => rfl
    | some active => cases active <;> rfl

theorem lpActive_withSsp (v : Word) (s : State) :
    lpActive (withSsp v s).priv (withSsp v s).virt (withSsp v s) = lpActive s.priv s.virt s := rfl

theorem execLpad_withSsp (l : BitVec 20) (v : Word) (s : State) :
    execLpad l (withSsp v s) = mapNext (withSsp v) (execLpad l s) := by
  unfold execLpad
  rw [lpActive_withSsp]
  split
  · rfl
  · exact advance_withSsp 4 v s

/-- An instruction that addresses no CSR runs alike whatever `ssp` holds, and keeps it, in every mode. -/
theorem exec_withSsp_of_csrNumOf_none {i : Instr} (h : csrNumOf i = none) (v : Word) (s : State) :
    exec i (withSsp v s) = mapNext (withSsp v) (exec i s) := by
  cases i with
  | csrrw | csrrs | csrrc | csrrwi | csrrsi | csrrci => cases h
  | mopRN => rw [exec_mopRN, exec_mopRN, zimopBehaviour_withSsp, zicfissDispatch_withSsp]
  | mopRRN => rw [exec_mopRRN, exec_mopRRN, zimopBehaviour_withSsp, zicfissDispatch_withSsp]
  | cmopN => rw [exec_cmopN, exec_cmopN, zcmopBehaviour_withSsp, zicfissDispatch_withSsp]
  | lpad l => exact execLpad_withSsp l v s

theorem exec_ssp_memory_of_csrNumOf_none {i : Instr} (h : csrNumOf i = none) {s t : State} (hx : exec i s = .next t) :
    t.ssp = s.ssp ∧ sameMemory s t := by
  obtain ⟨-, hmem, -, -, -, -, hssp, -⟩ := instructionFrame i s t hx
  exact ⟨hssp (by simp [h]), hmem⟩

/-- Settles O38: where Zicfiss is not active the dispatch ends in the plain behaviour, and the rest holds of every instruction
that addresses no CSR. -/
theorem zicfissWordsRevert : Obligations.ZicfissWordsRevert := by
  intro s n m k rd rs1 rs2 _ hoff
  obtain ⟨-, hmopR, hmopRR, hcmop⟩ := zicfissFallback_of_inactive hoff
  refine ⟨hmopR n rd rs1, hmopRR m rd rs1 rs2, hcmop k, fun i hi => ?_⟩
  have hnone : csrNumOf i = none := by
    simp only [List.mem_cons, List.not_mem_nil, or_false] at hi
    obtain rfl | rfl | rfl := hi <;> rfl
  exact ⟨exec_ne_fault_of_csrNumOf_none hnone s, fun t => exec_ssp_memory_of_csrNumOf_none hnone,
    fun v => exec_withSsp_of_csrNumOf_none hnone v s⟩

/-! ### The plain behaviours complete (R193, R196) -/

theorem advance_completes {n : Nat} {s : State} (h : s.pc.toNat + n < 2 ^ 64) :
    advance n s = .next { s with pc := s.pc + BitVec.ofNat 64 n } :=
  (advance_next_iff ..).mpr ⟨h, rfl⟩

theorem zimopBehaviour_completes {s : State} (h : s.pc.toNat + 4 < 2 ^ 64) (rd : Reg) :
    zimopBehaviour rd s = .next { s.setX rd 0#64 with pc := s.pc + 4#64 } := by
  rw [zimopBehaviour, advance_completes (by rwa [setX_pc]), setX_pc]

/-- A register reads 0 after 0 is written to it, `x[0]` included, which discards the write. -/
theorem x_setX_zero_self (rd : Reg) (s : State) : (s.setX rd 0#64).x rd = 0#64 := by
  rw [x_setX]
  by_cases hrd : rd = 0#5
  · simp [hrd, x_zero]
  · simp [hrd]

theorem sameRegsBut_setX (rd : Reg) (v pc : Word) (s : State) : sameRegsBut rd s { s.setX rd v with pc := pc } :=
  fun r hr => (x_setX s rd r v).trans (if_neg fun h => hr h.1)

theorem sameButRegsPc_setX (rd : Reg) (v pc : Word) (s : State) :
    sameButRegsPc s { s.setX rd v with pc := pc } := by
  simp [sameButRegsPc, sameMode, sameStoredCsrs, sameMemory]

/-- Settles O39: the fall-back is the plain behaviour, which completes below the top of the space. -/
theorem mopFallbackCompletes : Obligations.MopFallbackCompletes := by
  intro s n m k rd rs1 rs2 hoff
  obtain ⟨-, hmopR, hmopRR, hcmop⟩ := zicfissFallback_of_inactive hoff
  refine ⟨fun hpc => ?_, fun hpc => (hcmop k).trans (advance_completes hpc)⟩
  have hplain := zimopBehaviour_completes hpc rd
  exact ⟨_, (hmopR n rd rs1).trans hplain, (hmopRR m rd rs1 rs2).trans hplain, rfl, x_setX_zero_self rd s,
    sameRegsBut_setX rd _ _ s, sameButRegsPc_setX rd _ _ s⟩

end Sys2Proof.Proofs

/-! ## The landing pad: ELP and lpad where Zicfilp is not active, and the two refusals -/

namespace Sys2Proof.Proofs
open Sys2Proof.Machine

/-! ### Where Zicfilp is not active (R66, R210) -/

/-- The enable that governs a mode, as stored, is all that the activity predicate reads there. -/
theorem lpActive_of_zicfilpOff {s : State} (h : zicfilpOff s) : lpActive s.priv s.virt s = false := by
  obtain ⟨hM, hoff⟩ | ⟨hS, hV, hoff⟩ | ⟨hS, hV, hoff⟩ | ⟨hU, hV, hoff⟩ | ⟨hU, hV, hoff⟩ := h
  · rw [hM]
    exact hoff
  · rw [hS, hV]
    exact hoff
  · rw [hS, hV]
    exact hoff
  · rw [hU, hV]
    exact hoff
  · rw [hU, hV]
    exact hoff

/-- Settles O30: the rules of an inactive mode depend on its enable through the activity predicate alone. -/
theorem zicfilpInactiveRules : Obligations.ZicfilpInactiveRules := by
  intro s h
  have hoff := lpActive_of_zicfilpOff h
  exact ⟨hoff, zicfilpFallback_of_inactive hoff⟩

/-! ### The refusals (R213, R214) -/

/-- Settles O7, the default case of `stepIn_of_lpExpected`: the precondition on ELP stands before the fetch. -/
theorem stepRefusedWhileLandingPadExpected : Obligations.StepRefusedWhileLandingPadExpected := fun s he =>
  (step_eq_stepIn s).trans (stepIn_of_lpExpected he)

theorem exec_lpad (lpl : BitVec 20) (s : State) :
    exec (.lpad lpl) s = if lpActive s.priv s.virt s then .refused .lpadActiveBehaviour else advance 4 s := rfl

/-- Settles O32: activity alone decides between the two ends of `lpad`, and the label is not read. -/
theorem lpadRefusedWhereActive : Obligations.LpadRefusedWhereActive := fun s lpl h =>
  (exec_lpad lpl s).trans (if_pos h)

end Sys2Proof.Proofs

/-! ## No mode less than M changes its own activity -/

namespace Sys2Proof.Proofs
open Sys2Proof.Machine

/-! ### The enables that stand below M (R162, R242) -/

/-- The two CSRs of the machine level are reached in M-mode alone (R162). -/
theorem ne_menvcfg_mseccfg_of_csrPrivOk {c : Csr} {p : Priv} {v : Bool} (hp : p ≠ .M) (hok : csrPrivOk c p v = .ok) :
    c ≠ .menvcfg ∧ c ≠ .mseccfg := by
  refine ⟨?_, ?_⟩ <;>
  · rintro rfl
    cases p with
    | M => exact hp rfl
    | S | U => cases hok

/-- VS-mode does not reach `henvcfg` (R162). -/
theorem ne_henvcfg_of_csrPrivOk_VS {c : Csr} (hok : csrPrivOk c .S true = .ok) : c ≠ .henvcfg := by
  rintro rfl
  cases hok

/-- Each mode less than M is kept by the table of R162 from the register of its own Zicfiss enable and from those of the gates
before it; no CSR write that it can make opens or shuts one of them. -/
theorem ssActive_csrWrite {s : State} {c : Csr} (hM : s.priv ≠ .M) (hok : csrPrivOk c s.priv s.virt = .ok) (v : Word) :
    ssActive s.priv s.virt (csrWrite c v s) = ssActive s.priv s.virt s := by
  obtain ⟨hmenvcfg, -⟩ := ne_menvcfg_mseccfg_of_csrPrivOk hM hok
  cases hp : s.priv with
  | M => exact absurd hp hM
  | U =>
    rw [hp] at hok
    obtain rfl := eq_ssp_of_csrPrivOk_U hok
    rfl
  | S =>
    rw [hp] at hok
    have hgate : menvcfgSBCFIE (csrWrite c v s) = menvcfgSBCFIE s := by
      rw [menvcfgSBCFIE, csrWrite_menvcfg hmenvcfg, menvcfgSBCFIE]
    cases hv : s.virt with
    | false => exact congrArg some hgate
    | true =>
      rw [hv] at hok
      have hown : henvcfgSBCFIE (csrWrite c v s) = henvcfgSBCFIE s := by
        rw [henvcfgSBCFIE, hgate, csrWrite_henvcfg hmenvcfg (ne_henvcfg_of_csrPrivOk_VS hok), henvcfgSBCFIE]
      exact congrArg some hown

/-! ### Through an instruction -/

/-- Whether Zicfiss and whether Zicfilp is active in the running mode (R65, R66). -/
def ownActivity (s : State) : Option Bool × Bool := (ssActive s.priv s.virt s, lpActive s.priv s.virt s)

/-- No enable is in a general register or in the pc. -/
theorem ownActivity_setXIf_withPc (reads : Bool) (rd : Reg) (old pc : Word) (s : State) :
    ownActivity { setXIf reads rd old s with pc := pc } = ownActivity s := by
  simp [ownActivity, ssActive, lpActive, menvcfgSBCFIE, mstatusUBCFIE, henvcfgSBCFIE, vsstatusUBCFIE, mseccfgMFCFIE,
    menvcfgSFCFIE, mstatusUFCFIE, henvcfgSFCFIE, vsstatusUFCFIE]

/-- A CSR write that the table of R162 allows to a mode less than M leaves both as they were. -/
theorem ownActivity_csrWrite {s : State} {c : Csr} (hM : s.priv ≠ .M) (hok : csrPrivOk c s.priv s.virt = .ok) (v : Word) :
    ownActivity (csrWrite c v s) = ownActivity s := by
  obtain ⟨-, hmseccfg⟩ := ne_menvcfg_mseccfg_of_csrPrivOk hM hok
  rw [ownActivity, csrWrite_priv, csrWrite_virt, ssActive_csrWrite hM hok, lpActive_csrWrite hmseccfg hok, ownActivity]

/-- Settles O44: the only way to an enable is an instruction's own CSR write, and the table of R162 lets a mode less than M
write no register that its own activity depends on. -/
theorem noModeSwitchesItsOwnProtection : Obligations.NoModeSwitchesItsOwnProtection := by
  intro i s t hM h
  have hown : ownActivity t = ownActivity s :=
    exec_preserves ownActivity ownActivity_setXIf_withPc h fun c _ haccess v => by
      obtain ⟨-, hok, -⟩ := (csrAccess_ok_iff ..).mp haccess
      exact ownActivity_csrWrite hM hok v
  exact Prod.mk.inj hown

end Sys2Proof.Proofs

/-! ## Where Zicfiss is not active: no run observes ssp -/

namespace Sys2Proof.Proofs
open Sys2Proof.Machine

/-! ### A CSR instruction with another CSR than ssp (R161, R170) -/

theorem csrRead_withSsp {c : Csr} (hc : c ≠ .ssp) (v : Word) (s : State) : csrRead c (withSsp v s) = csrRead c s := by
  cases c with
  | ssp => exact absurd rfl hc
  | sstatus | vsstatus | mstatus | menvcfg | henvcfg | mseccfg | dcsr => rfl

/-- No write of a CSR but `ssp` decides by the value in `ssp`, so each store, and each choice whether to draw or to clear ELP,
is the same with another value there. -/
theorem csrWrite_withSsp {c : Csr} (hc : c ≠ .ssp) (w v : Word) (s : State) :
    csrWrite c w (withSsp v s) = withSsp v (csrWrite c w s) := by
  cases c with
  | ssp => exact absurd rfl hc
  | vsstatus | mstatus | dcsr => rfl
  | sstatus | menvcfg | henvcfg | mseccfg =>
    simp only [csrWrite, writeSstatus, writeMenvcfg, writeHenvcfg, writeMseccfg, clearElpIfInactive, apply_ite (withSsp v)]
    rfl

theorem csrWriteIf_withSsp {c : Csr} (hc : c ≠ .ssp) (writes : Bool) (w v : Word) (s : State) :
    csrWriteIf writes c w (withSsp v s) = withSsp v (csrWriteIf writes c w s) := by
  cases writes with
  | false => rfl
  | true => exact csrWrite_withSsp hc w v s

theorem setXIf_withSsp (reads : Bool) (rd : Reg) (w v : Word) (s : State) :
    setXIf reads rd w (withSsp v s) = withSsp v (setXIf reads rd w s) := by
  cases reads with
  | false => rfl
  | true => exact setX_withSsp rd w v s

/-- The access check asks for the mode and the enables alone. -/
theorem csrAccessIn_withSsp (P : Config.Params) (a : CsrNum) (v : Word) (s : State) :
    csrAccessIn P a (withSsp v s) = csrAccessIn P a s := rfl

/-- Where Zicfiss is not active below M, no number leads a CSR instruction to `ssp` (R170). -/
theorem ne_ssp_of_csrAccessIn_ok {P : Config.Params} {a : CsrNum} {s : State} {c : Csr}
    (hoff : ssActive s.priv s.virt s = some false) (h : csrAccessIn P a s = .ok c) : c ≠ .ssp := by
  intro hc
  obtain ⟨-, -, hgate⟩ := csrAccessIn_ok h
  have hopen := hgate hc
  rw [sspPasses, hoff] at hopen
  cases hopen

theorem csrInstructionIn_withSsp {s : State} (hoff : ssActive s.priv s.virt s = some false) (P : Config.Params) (w : IWord)
    (a : CsrNum) (rd : Reg) (reads writes : Bool) (f : Word → Word) (v : Word) :
    csrInstructionIn P w a rd reads writes f (withSsp v s) =
      mapNext (withSsp v) (csrInstructionIn P w a rd reads writes f s) := by
  unfold csrInstructionIn
  rw [csrAccessIn_withSsp]
  cases haccess : csrAccessIn P a s with
  | refuse r => rfl
  | illegal => rfl
  | ok c =>
    have hc := ne_ssp_of_csrAccessIn_ok hoff haccess
    simp only [csrRead_withSsp hc, csrWriteIf_withSsp hc, setXIf_withSsp, advance_withSsp]

/-! ### A step, and a run (R267) -/

theorem x_withSsp (r : Reg) (v : Word) (s : State) : (withSsp v s).x r = s.x r := rfl

/-- An instruction either addresses no CSR, and then never asks for `ssp`, or finds the gate of `ssp` shut. -/
theorem exec_withSsp {s : State} (hoff : ssActive s.priv s.virt s = some false) (i : Instr) (v : Word) :
    exec i (withSsp v s) = mapNext (withSsp v) (exec i s) := by
  cases i with
  | csrrw | csrrs | csrrc | csrrwi | csrrsi | csrrci =>
    simp only [exec_eq_execIn, execIn_csrrw, execIn_csrrs, execIn_csrrc, execIn_csrrwi, execIn_csrrsi, execIn_csrrci,
      x_withSsp, csrInstructionIn_withSsp hoff]
  | mopRN | mopRRN | cmopN | lpad => exact exec_withSsp_of_csrNumOf_none rfl v s

theorem elpPrecondition_withSsp (v : Word) (s : State) : elpPrecondition (withSsp v s) = elpPrecondition s := rfl

theorem fetchDecode_withSsp (v : Word) (s : State) : fetchDecode (withSsp v s) = fetchDecode s := rfl

theorem step_withSsp {s : State} (hoff : ssActive s.priv s.virt s = some false) (v : Word) :
    step (withSsp v s) = mapNext (withSsp v) (step s) := by
  unfold step
  rw [elpPrecondition_withSsp, fetchDecode_withSsp]
  cases elpPrecondition s with
  | some r => rfl
  | none =>
    cases fetchDecode s with
    | error e => cases e <;> rfl
    | ok i => exact exec_withSsp hoff i v

/-- A step below M leaves Zicfiss inactive where it was (R242). -/
theorem ssActive_step_of_inactive {s t : State} (hoff : ssActive s.priv s.virt s = some false) (h : step s = .next t) :
    ssActive t.priv t.virt t = some false := by
  obtain ⟨-, i, -, hx⟩ := (step_next_iff s t).mp h
  have hM : s.priv ≠ .M := fun hM => nomatch hoff.symm.trans ((ssActive_eq_none_iff ..).mpr hM)
  obtain ⟨hss, -⟩ := noModeSwitchesItsOwnProtection i s t hM hx
  exact hss.trans hoff

theorem run_withSsp {s : State} (hoff : ssActive s.priv s.virt s = some false) (k : Nat) (v : Word) :
    Host.Core.run core k (withSsp v s) = mapNext (withSsp v) (Host.Core.run core k s) := by
  induction k generalizing s with
  | zero => rfl
  | succ k ih =>
    have hstep : core.step (withSsp v s) = mapNext (withSsp v) (core.step s) := step_withSsp hoff v
    simp only [Host.Core.run, hstep]
    cases hs : core.step s with
    | next t => exact ih (ssActive_step_of_inactive hoff hs)
    | fault e => rfl
    | refused r => rfl

/-- Settles O45, by induction on the number of steps: a step neither reads nor writes `ssp`, and leaves Zicfiss inactive for
the next one. -/
theorem inactiveModeCannotObserveSsp : Obligations.InactiveModeCannotObserveSsp := fun k _ v hoff =>
  run_withSsp hoff k v

end Sys2Proof.Proofs

/-! ## The order in which the gates are opened -/

namespace Sys2Proof.Proofs
open Sys2Proof.Machine

/-! ### The gates of the Zicfiss enables, open: a write fixes what the field reads as (R64) -/

theorem menvcfgSBCFIE_csrWrite_menvcfg (v : Word) (s : State) :
    menvcfgSBCFIE (csrWrite .menvcfg v s) = v.getLsbD 60 :=
  csrWrite_menvcfg_cfiBit (by decide) v s

theorem menvcfgSBCFIE_csrWrite {c : Csr} (hc : c ≠ .menvcfg) (v : Word) (s : State) :
    menvcfgSBCFIE (csrWrite c v s) = menvcfgSBCFIE s := by
  rw [menvcfgSBCFIE, csrWrite_menvcfg hc, menvcfgSBCFIE]

theorem henvcfgSBCFIE_csrWrite {c : Csr} (hm : c ≠ .menvcfg) (hh : c ≠ .henvcfg) (v : Word) (s : State) :
    henvcfgSBCFIE (csrWrite c v s) = henvcfgSBCFIE s := by
  rw [henvcfgSBCFIE, menvcfgSBCFIE_csrWrite hm, csrWrite_henvcfg hm hh, henvcfgSBCFIE]

theorem henvcfgSBCFIE_csrWrite_of_gate {s : State} (h : menvcfgSBCFIE s = true) (u : Word) :
    henvcfgSBCFIE (csrWrite .henvcfg u s) = u.getLsbD 60 := by
  rw [henvcfgSBCFIE, menvcfgSBCFIE_csrWrite (by decide), csrWrite_henvcfg_cfiBit (by decide), h]
  simp

theorem mstatusUBCFIE_csrWrite_of_gate {s : State} (h : menvcfgSBCFIE s = true) (u : Word) :
    mstatusUBCFIE (csrWrite .mstatus u s) = u.getLsbD 24 := by
  rw [mstatusUBCFIE, menvcfgSBCFIE_csrWrite (by decide), csrWrite_mstatus_cfiBit (by decide), h]
  simp

theorem vsstatusUBCFIE_csrWrite_of_gate {s : State} (h : henvcfgSBCFIE s = true) (w : Word) :
    vsstatusUBCFIE (csrWrite .vsstatus w s) = w.getLsbD 24 := by
  rw [vsstatusUBCFIE, henvcfgSBCFIE_csrWrite (by decide) (by decide), csrWrite_vsstatus_cfiBit (by decide), h]
  simp

/-- Settles O50: each write finds the gates before it open, and the draw of the gate it stands behind overwritten. -/
theorem enablingOrderFixesGatedFields : Obligations.EnablingOrderFixesGatedFields := by
  intro s v u w
  have hwritten := menvcfgSBCFIE_csrWrite_menvcfg v s
  refine ⟨fun hopen => ?_, fun hshut p virt hp => ssActive_of_menvcfg_gate (hwritten.trans hshut) hp virt⟩
  have hgate := hwritten.trans hopen
  rw [csrRead_henvcfg_sbcfie, csrRead_mstatus_ubcfie, csrRead_vsstatus_ubcfie]
  have hhenvcfg := henvcfgSBCFIE_csrWrite_of_gate hgate u
  exact ⟨hhenvcfg, mstatusUBCFIE_csrWrite_of_gate hgate u,
    fun hu => vsstatusUBCFIE_csrWrite_of_gate (hhenvcfg.trans hu) w⟩

end Sys2Proof.Proofs

/-! ## Reset -/

namespace Sys2Proof.Proofs
open Sys2Proof.Machine

theorem reservedZero_reset : reservedZero State.reset :=
  ⟨BitVec.zero_and, BitVec.zero_and, BitVec.zero_and, BitVec.zero_and, BitVec.zero_and, BitVec.zero_and⟩

/-- SSPMP resets to the value by which SSPMP_LEGAL is not empty (R58, R261). -/
theorem sspmpIsLegal_reset : sspmpIsLegal State.reset := by
  simp [sspmpIsLegal, mseccfgSSPMP, State.reset, Config.sspmpLegal]

/-- Settles O47, part by part of the invariant. -/
theorem resetMeetsTheInvariant : Obligations.ResetMeetsTheInvariant where
  mode := fun _ => rfl
  pc := rfl
  slot0 := rfl
  reserved := reservedZero_reset
  sspmp := sspmpIsLegal_reset
  elp := fun _ => rfl
  mem := rfl

end Sys2Proof.Proofs

/-! ## Both extensions off after reset -/

namespace Sys2Proof.Proofs
open Sys2Proof.Machine

/-- Each mode's Zicfilp enable is a bit of a register that resets to zero (R66, R260). -/
theorem lpActive_reset (p : Priv) (v : Bool) : lpActive p v State.reset = false := by
  cases p with
  | M => rfl
  | S => cases v <;> rfl
  | U => cases v <;> rfl

theorem menvcfgSBCFIE_reset : menvcfgSBCFIE State.reset = false := BitVec.getLsbD_zero

/-- M-mode has no answer (R65); below M the outermost gate `menvcfg.SBCFIE` is shut after reset. -/
theorem ssActive_reset_ne_true (p : Priv) (v : Bool) : ssActive p v State.reset ≠ some true := by
  by_cases hp : p = .M
  · simp [(ssActive_eq_none_iff p v State.reset).mpr hp]
  · simp [ssActive_of_menvcfg_gate menvcfgSBCFIE_reset hp v]

/-- Settles O48: Zicfilp mode by mode, Zicfiss by its outermost gate. -/
theorem resetHasExtensionsOff : Obligations.ResetHasExtensionsOff :=
  ⟨rfl, rfl, rfl, fun p v => ⟨lpActive_reset p v, ssActive_reset_ne_true p v⟩, sspmpIsLegal_reset⟩

end Sys2Proof.Proofs
